-- ==== Sys2Proof/Word.lean ====
section
/-! DEFINITION. The word types of the block (00_scope R9) and its times (00_scope R10). -/

namespace Sys2Proof

/-- A `u8` of 00_scope R9. -/
abbrev Byte := BitVec 8

/-- A `u16` of 00_scope R9: a shift register, the CRC, a raw word of 30_encoding R111. -/
abbrev Word := BitVec 16

/-- A time of 00_scope R10: a natural number of ticks, or NEVER, which is greater than every number. -/
inductive Time where
  | ticks (n : Nat)
  | never
  deriving DecidableEq, Repr

/-- `a ≤ b` in the order of 00_scope R10. -/
def Time.le : Time → Time → Bool
  | _, .never => true
  | .never, .ticks _ => false
  | .ticks a, .ticks b => decide (a ≤ b)

/-- `a < b` in the order of 00_scope R10. -/
def Time.lt : Time → Time → Bool
  | .never, _ => false
  | .ticks _, .never => true
  | .ticks a, .ticks b => decide (a < b)

/-- `t + d` of 00_scope R10: NEVER stays NEVER. -/
def Time.add : Time → Int → Time
  | .never, _ => .never
  | .ticks n, d => .ticks (n + d).toNat

end Sys2Proof
end

