-- ==== Sys2Proof/Syntax.lean ====
section
/-! DEFINITION. The syntax: one constructor of `Instr` per row of spec/opcode_table.json, in the table's order,
with the operands the row's rule gives it. -/

namespace Sys2Proof

/-- The encoding of the track, `cfg.mode` (10_state R40, 30_encoding R130). -/
inductive Mode where
  | mfm
  | fm
  deriving DecidableEq, Repr

/-- The seventeen states of the sequencer, in the order of their codes (30_encoding R135). -/
inductive LiveState where
  | idle
  | searchAddressMarkHeader
  | readHeaderBlockHeader
  | readIdBlock
  | searchAddressMarkData
  | readDataBlockHeader
  | readSectorData
  | readSectorDataByte
  | writeSectorSkipGap2
  | writeSectorData
  | writeSectorDataByte
  | writeTrackPreSectors
  | writeTrackPreSectorsByte
  | writeTrackSector
  | writeTrackSectorByte
  | writeTrackPostSectors
  | writeTrackPostSectorsByte
  deriving DecidableEq, Repr

/-- The command bytes of the nine-byte data commands after the five command bits (46_command_engine R291):
`flags` are bits 7..5 of the opcode byte (MT, MFM, SK), `hu` is the head/unit byte. -/
structure DataArgs where
  flags : BitVec 3
  hu  : Byte
  c   : Byte
  h   : Byte
  r   : Byte
  n   : Byte
  eot : Byte
  gpl : Byte
  dtl : Byte
  deriving DecidableEq, Repr

/-- The instructions: one constructor per row of spec/opcode_table.json. Every host command carries `flags`,
bits 7..5 of its opcode byte, so that no bit of the encoding is dropped. -/
inductive Instr where
  -- format OP: the operations of 30_encoding R134
  | pllSetClock (period : Nat)
  | pllReset (t : Time)
  | getNextBit (limit : Time)
  | writeNextBit (bit : Bool) (limit : Time)
  | startWriting (tm : Time)
  | commit (tm : Time)
  | stopWriting (tm : Time)
  | encodeMfm (v : Byte)
  | encodeFm (v : Byte)
  | loadRaw (w : Word)
  | crcSeed
  | crcBit (b : Bool)
  | crcByte (v : Byte)
  | readOneBit (limit : Time)
  | writeOneBit (limit : Time)
  | liveStart (drive : Nat) (state : LiveState)
  | liveRun (limit : Time)
  | checkpoint
  | rollback
  | liveSync
  | liveDelay (state : LiveState)
  | liveAbort
  | reservedOp (code : Byte)
  -- format STATE: the states of 30_encoding R135; one execution of the state's rule with LIVE_RUN's limit
  | idle (limit : Time)
  | searchAddressMarkHeader (limit : Time)
  | readHeaderBlockHeader (limit : Time)
  | readIdBlock (limit : Time)
  | searchAddressMarkData (limit : Time)
  | readDataBlockHeader (limit : Time)
  | readSectorData (limit : Time)
  | readSectorDataByte (limit : Time)
  | writeSectorSkipGap2 (limit : Time)
  | writeSectorData (limit : Time)
  | writeSectorDataByte (limit : Time)
  | writeTrackPreSectors (limit : Time)
  | writeTrackPreSectorsByte (limit : Time)
  | writeTrackSector (limit : Time)
  | writeTrackSectorByte (limit : Time)
  | writeTrackPostSectors (limit : Time)
  | writeTrackPostSectorsByte (limit : Time)
  | reservedState (code : Byte)
  -- format RAW16: words of the medium (30_encoding R111, R113, R114)
  | rawWord (w : Word)
  | mfmByte (prev : Bool) (v : Byte)
  | fmByte (v : Byte)
  -- format MARK16: mark words of the medium (30_encoding R115)
  | syncMfm
  | syncFmId
  | fmDam
  | fmDdam
  | mfmIam
  | fmIam
  -- format AM8: mark bytes of the medium (30_encoding R116)
  | amId
  | amData
  | amDdata
  | amIndex
  -- format FLAG: the bits of live.flags (30_encoding R136)
  | fDamDeleted
  | fDataMarkMissing
  | fOverrun
  -- format HOSTCMD: the host commands (46_command_engine R291)
  | readTrack (a : DataArgs)
  | specify (flags : BitVec 3) (b1 b2 : Byte)
  | senseDriveStatus (flags : BitVec 3) (hu : Byte)
  | writeData (a : DataArgs)
  | readData (a : DataArgs)
  | recalibrate (flags : BitVec 3) (hu : Byte)
  | senseInterruptStatus (flags : BitVec 3)
  | writeDeletedData (a : DataArgs)
  | readId (flags : BitVec 3) (hu : Byte)
  | readDeletedData (a : DataArgs)
  | formatTrack (flags : BitVec 3) (hu n sc gpl d : Byte)
  | dumpReg (flags : BitVec 3)
  | seek (flags : BitVec 3) (hu ncn : Byte)
  | version (flags : BitVec 3)
  | scanEqual (a : DataArgs)
  | configure (flags : BitVec 3) (b1 b2 b3 : Byte)
  | lock (flags : BitVec 3)
  | scanLowOrEqual (a : DataArgs)
  | scanHighOrEqual (a : DataArgs)
  deriving DecidableEq, Repr

/-- The seven formats of the rows of spec/opcode_table.json (30_encoding introduction). -/
inductive Format where
  | op
  | state
  | raw16
  | mark16
  | am8
  | flag
  | hostcmd
  deriving DecidableEq, Repr

/-- A request as it is encoded: the format of its code, the code's bytes (the low byte of a 16-cell word first),
and the operands, which "travel beside the code, not inside it" (30_encoding introduction). A host command has
all its command bytes in `code`. DESIGN CHOICE, log 4. -/
structure Request where
  fmt  : Format
  code : List Byte
  args : List Time
  deriving DecidableEq, Repr

/-- Why a request is no instruction (30_encoding R139, 92 D35). -/
inductive DecodeError where
  /-- The code has not the number of bytes its format gives it. -/
  | codeLength
  /-- An operand that must be a number of ticks, a byte, a word, a bit or a drive is NEVER. -/
  | operandNever
  /-- An operand lies outside its range. -/
  | operandOutOfRange
  /-- A state operand is above 16. -/
  | stateCodeReserved
  /-- A word of format MARK16 is none of the six mark words. -/
  | notAMarkWord
  /-- A byte of format AM8 is none of the four mark bytes. -/
  | notAMarkByte
  /-- A byte of format FLAG is none of the three flags. -/
  | notAFlag
  /-- The low five bits of a host command byte are no command (46_command_engine R292). -/
  | unknownHostCommand
  deriving DecidableEq, Repr

end Sys2Proof
end

