-- ==== Sys2Proof/Machine/Codec.lean ====
section
/-! DEFINITION. Cells, raw words and bytes: DataByte, ClockByte, the MFM and FM byte encodings (30_encoding R110 to
R114), the codes of the states (30_encoding R135). -/

namespace Sys2Proof.Machine

/-- The `n`-bit number whose bit `i` is `f i`. -/
def fromBits : (n : Nat) → (Nat → Bool) → BitVec n
  | 0, _ => 0#0
  | n + 1, f => BitVec.cons (f n) (fromBits n f)

/-- `DataByte(w)`: bit k is `w[2k]` (30_encoding R112). -/
def dataByte (w : Word) : Byte := fromBits 8 fun k => w.getLsbD (2 * k)

/-- `ClockByte(w)`: bit k is `w[2k+1]` (30_encoding R112). -/
def clockByte (w : Word) : Byte := fromBits 8 fun k => w.getLsbD (2 * k + 1)

/-- The raw word with the clock cells `ck` at bits `2k+1` and the data cells `dk` at bits `2k` (30_encoding R111). -/
def interleave (c d : Byte) : Word :=
  fromBits 16 fun i => if i % 2 = 1 then c.getLsbD (i / 2) else d.getLsbD (i / 2)

/-- The MFM clock cells of byte `v`: `ck = 1` when both `dk` and the data bit before it are 0, where the data bit
before `d7` is `p` and the data bit before `dk` is `d(k+1)` (30_encoding R113). -/
def mfmClocks (p : Bool) (v : Byte) : Byte :=
  fromBits 8 fun k => !(if k = 7 then p else v.getLsbD (k + 1)) && !v.getLsbD k

/-- MFM encoding of a byte after a previous data bit (30_encoding R113). -/
def mfmWord (p : Bool) (v : Byte) : Word := interleave (mfmClocks p v) v

/-- FM encoding of a byte: every clock cell is 1 (30_encoding R114). -/
def fmWord (v : Byte) : Word := interleave 0xFF v

/-- The word is an FM data word: its ClockByte is 0xFF (30_encoding R114). -/
def isFmWord (w : Word) : Bool := clockByte w == 0xFF

/-- The word is the MFM encoding of its DataByte after the previous data bit `p` (30_encoding R113). -/
def isMfmWord (p : Bool) (w : Word) : Bool := mfmWord p (dataByte w) == w

/-- The cells of a raw word, first in time first (30_encoding R111). -/
def cellsOf (w : Word) : List Bool :=
  [w.getLsbD 15, w.getLsbD 14, w.getLsbD 13, w.getLsbD 12, w.getLsbD 11, w.getLsbD 10, w.getLsbD 9, w.getLsbD 8,
   w.getLsbD 7, w.getLsbD 6, w.getLsbD 5, w.getLsbD 4, w.getLsbD 3, w.getLsbD 2, w.getLsbD 1, w.getLsbD 0]

/-- The bits of a byte, most significant first (20_memory R85). -/
def bitsOf (v : Byte) : List Bool :=
  [v.getLsbD 7, v.getLsbD 6, v.getLsbD 5, v.getLsbD 4, v.getLsbD 3, v.getLsbD 2, v.getLsbD 1, v.getLsbD 0]

/-- The code of a state (30_encoding R135). -/
def stateCode : LiveState → Nat
  | .idle => 0
  | .searchAddressMarkHeader => 1
  | .readHeaderBlockHeader => 2
  | .readIdBlock => 3
  | .searchAddressMarkData => 4
  | .readDataBlockHeader => 5
  | .readSectorData => 6
  | .readSectorDataByte => 7
  | .writeSectorSkipGap2 => 8
  | .writeSectorData => 9
  | .writeSectorDataByte => 10
  | .writeTrackPreSectors => 11
  | .writeTrackPreSectorsByte => 12
  | .writeTrackSector => 13
  | .writeTrackSectorByte => 14
  | .writeTrackPostSectors => 15
  | .writeTrackPostSectorsByte => 16

/-- The state of a code; codes 17 and above are reserved (30_encoding R135, R139). -/
def stateOfCode : Nat → Option LiveState
  | 0 => some .idle
  | 1 => some .searchAddressMarkHeader
  | 2 => some .readHeaderBlockHeader
  | 3 => some .readIdBlock
  | 4 => some .searchAddressMarkData
  | 5 => some .readDataBlockHeader
  | 6 => some .readSectorData
  | 7 => some .readSectorDataByte
  | 8 => some .writeSectorSkipGap2
  | 9 => some .writeSectorData
  | 10 => some .writeSectorDataByte
  | 11 => some .writeTrackPreSectors
  | 12 => some .writeTrackPreSectorsByte
  | 13 => some .writeTrackSector
  | 14 => some .writeTrackSectorByte
  | 15 => some .writeTrackPostSectors
  | 16 => some .writeTrackPostSectorsByte
  | _ => none

end Sys2Proof.Machine
end

