-- ==== Sys2Proof/WellFormed.lean ====
section
/-! DEFINITION. Well-formed instructions: those an encoding of 30_encoding stands for. -/

namespace Sys2Proof

/-- A reserved operation code: 0x00 and 0x17 to 0xFF (30_encoding R139). -/
def reservedOpCode (code : Byte) : Bool := code == 0 || decide (0x17 ≤ code.toNat)

/-- A reserved state code: 17 and above (30_encoding R139). -/
def reservedStateByte (code : Byte) : Bool := decide (17 ≤ code.toNat)

/-- The word is the encoding of a byte, in FM or after some data bit in MFM (30_encoding R113, R114). -/
def isByteWord (w : Word) : Bool :=
  Machine.isFmWord w || Machine.isMfmWord false w || Machine.isMfmWord true w

/-- Which instructions have an encoding of their own. A reserved code is one of R139; RAW_WORD stands for a word that
is the encoding of no byte; an MFM byte with `d7` = 1 has one word for both previous bits and is written with
`prev` = 0; the MFM word 0xAAAA of byte 0 after a 0 is also the FM word of byte 0 and is written as FM_BYTE. -/
def Instr.wf : Instr → Bool
  | .reservedOp code => reservedOpCode code
  | .reservedState code => reservedStateByte code
  | .rawWord w => !isByteWord w
  | .mfmByte prev v => !(prev && v.getLsbD 7) && !(!prev && v == 0)
  | _ => true

end Sys2Proof
end

