-- ==== Sys2Proof/Decode.lean ====
section
/-! DEFINITION. The decoder (total, rejecting by name) and the encoder, written from 30_encoding R111 to R116, R134 to
R136, R139 and 46_command_engine R291; the host's reading of a bare table word. -/

namespace Sys2Proof

open Machine

/-- Operand `k` of a request; an operand that is not there is 0 (log 4). -/
def Request.operand (r : Request) (k : Nat) : Time := r.args.getD k (.ticks 0)

/-- Operand `k` as a number. -/
def Request.natArg (r : Request) (k : Nat) : Except DecodeError Nat :=
  match r.operand k with
  | .ticks n => .ok n
  | .never => .error .operandNever

/-- Operand `k` as an `n`-bit number. -/
def Request.bitsArg (r : Request) (n k : Nat) : Except DecodeError (BitVec n) :=
  match r.operand k with
  | .ticks v => if v < 2 ^ n then .ok (BitVec.ofNat n v) else .error .operandOutOfRange
  | .never => .error .operandNever

/-- Operand `k` as a `u1`. -/
def Request.bitArg (r : Request) (k : Nat) : Except DecodeError Bool :=
  match r.operand k with
  | .ticks 0 => .ok false
  | .ticks 1 => .ok true
  | .ticks _ => .error .operandOutOfRange
  | .never => .error .operandNever

/-- Operand `k` as a state (30_encoding R135, R139). -/
def Request.stateArg (r : Request) (k : Nat) : Except DecodeError LiveState :=
  match r.operand k with
  | .ticks n =>
    match stateOfCode n with
    | some s => .ok s
    | none => .error .stateCodeReserved
  | .never => .error .operandNever

/-- Format OP (30_encoding R134). Operands beyond the row's are not looked at (log 4). -/
def decodeOp (code : Byte) (r : Request) : Except DecodeError Instr :=
  match code.toNat with
  | 0x01 => (r.natArg 0).map .pllSetClock
  | 0x02 => .ok (.pllReset (r.operand 0))
  | 0x03 => .ok (.getNextBit (r.operand 0))
  | 0x04 => (r.bitArg 0).map fun b => .writeNextBit b (r.operand 1)
  | 0x05 => .ok (.startWriting (r.operand 0))
  | 0x06 => .ok (.commit (r.operand 0))
  | 0x07 => .ok (.stopWriting (r.operand 0))
  | 0x08 => (r.bitsArg 8 0).map .encodeMfm
  | 0x09 => (r.bitsArg 8 0).map .encodeFm
  | 0x0A => (r.bitsArg 16 0).map .loadRaw
  | 0x0B => .ok .crcSeed
  | 0x0C => (r.bitArg 0).map .crcBit
  | 0x0D => (r.bitsArg 8 0).map .crcByte
  | 0x0E => .ok (.readOneBit (r.operand 0))
  | 0x0F => .ok (.writeOneBit (r.operand 0))
  | 0x10 => (r.natArg 0).bind fun d => (r.stateArg 1).map (.liveStart d)
  | 0x11 => .ok (.liveRun (r.operand 0))
  | 0x12 => .ok .checkpoint
  | 0x13 => .ok .rollback
  | 0x14 => .ok .liveSync
  | 0x15 => (r.stateArg 0).map .liveDelay
  | 0x16 => .ok .liveAbort
  | _ => .ok (.reservedOp code)

/-- The state rows as instructions (30_encoding R135). -/
def stateInstr (limit : Time) : LiveState → Instr
  | .idle => .idle limit
  | .searchAddressMarkHeader => .searchAddressMarkHeader limit
  | .readHeaderBlockHeader => .readHeaderBlockHeader limit
  | .readIdBlock => .readIdBlock limit
  | .searchAddressMarkData => .searchAddressMarkData limit
  | .readDataBlockHeader => .readDataBlockHeader limit
  | .readSectorData => .readSectorData limit
  | .readSectorDataByte => .readSectorDataByte limit
  | .writeSectorSkipGap2 => .writeSectorSkipGap2 limit
  | .writeSectorData => .writeSectorData limit
  | .writeSectorDataByte => .writeSectorDataByte limit
  | .writeTrackPreSectors => .writeTrackPreSectors limit
  | .writeTrackPreSectorsByte => .writeTrackPreSectorsByte limit
  | .writeTrackSector => .writeTrackSector limit
  | .writeTrackSectorByte => .writeTrackSectorByte limit
  | .writeTrackPostSectors => .writeTrackPostSectors limit
  | .writeTrackPostSectorsByte => .writeTrackPostSectorsByte limit

/-- Format STATE (30_encoding R135, R139). -/
def decodeState (code : Byte) (r : Request) : Instr :=
  match stateOfCode code.toNat with
  | some s => stateInstr (r.operand 0) s
  | none => .reservedState code

/-- Format RAW16: an FM word is an FM byte, an MFM word an MFM byte, any other word a raw word
(30_encoding R111, R113, R114). -/
def decodeRaw (w : Word) : Instr :=
  if isFmWord w then .fmByte (dataByte w)
  else if isMfmWord false w then .mfmByte false (dataByte w)
  else if isMfmWord true w then .mfmByte true (dataByte w)
  else .rawWord w

/-- Format MARK16 (30_encoding R115). -/
def decodeMark (w : Word) : Except DecodeError Instr :=
  if w == 0x4489 then .ok .syncMfm
  else if w == 0xF57E then .ok .syncFmId
  else if w == 0xF56F then .ok .fmDam
  else if w == 0xF56A then .ok .fmDdam
  else if w == 0x5224 then .ok .mfmIam
  else if w == 0xF77A then .ok .fmIam
  else .error .notAMarkWord

/-- Format AM8 (30_encoding R116). -/
def decodeMarkByte (v : Byte) : Except DecodeError Instr :=
  if v == 0xFE then .ok .amId
  else if v == 0xFB then .ok .amData
  else if v == 0xF8 then .ok .amDdata
  else if v == 0xFC then .ok .amIndex
  else .error .notAMarkByte

/-- Format FLAG (30_encoding R136). -/
def decodeFlag (v : Byte) : Except DecodeError Instr :=
  if v == 1 then .ok .fDamDeleted
  else if v == 2 then .ok .fDataMarkMissing
  else if v == 4 then .ok .fOverrun
  else .error .notAFlag

/-- How many command bytes a command has, by the low five bits of its opcode byte (46_command_engine R291). -/
def commandLength (op : Byte) : Option Nat :=
  match (op.extractLsb' 0 5).toNat with
  | 0x02 => some 9
  | 0x03 => some 3
  | 0x04 => some 2
  | 0x05 => some 9
  | 0x06 => some 9
  | 0x07 => some 2
  | 0x08 => some 1
  | 0x09 => some 9
  | 0x0A => some 2
  | 0x0C => some 9
  | 0x0D => some 6
  | 0x0E => some 1
  | 0x0F => some 3
  | 0x10 => some 1
  | 0x11 => some 9
  | 0x13 => some 4
  | 0x14 => some 1
  | 0x19 => some 9
  | 0x1D => some 9
  | _ => none

/-- The nine-byte data commands. -/
def decodeData (k : DataArgs → Instr) (flags : BitVec 3) : List Byte → Except DecodeError Instr
  | [hu, c, h, r, n, eot, gpl, dtl] => .ok (k ⟨flags, hu, c, h, r, n, eot, gpl, dtl⟩)
  | _ => .error .codeLength

/-- The one-byte commands. -/
def decodeBare (i : Instr) : List Byte → Except DecodeError Instr
  | [] => .ok i
  | _ => .error .codeLength

/-- The two-byte commands. -/
def decodeUnit (k : Byte → Instr) : List Byte → Except DecodeError Instr
  | [hu] => .ok (k hu)
  | _ => .error .codeLength

/-- The three-byte commands. -/
def decodeTwo (k : Byte → Byte → Instr) : List Byte → Except DecodeError Instr
  | [a, b] => .ok (k a b)
  | _ => .error .codeLength

/-- CONFIGURE: four bytes. -/
def decodeThree (k : Byte → Byte → Byte → Instr) : List Byte → Except DecodeError Instr
  | [a, b, c] => .ok (k a b c)
  | _ => .error .codeLength

/-- FORMAT TRACK: six bytes. -/
def decodeFormat (flags : BitVec 3) : List Byte → Except DecodeError Instr
  | [hu, n, sc, gpl, d] => .ok (.formatTrack flags hu n sc gpl d)
  | _ => .error .codeLength

/-- Format HOSTCMD (46_command_engine R291): "the opcode's low 5 bits select a command". -/
def decodeHost (op : Byte) (rest : List Byte) : Except DecodeError Instr :=
  let flags := op.extractLsb' 5 3
  match (op.extractLsb' 0 5).toNat with
  | 0x02 => decodeData .readTrack flags rest
  | 0x03 => decodeTwo (.specify flags) rest
  | 0x04 => decodeUnit (.senseDriveStatus flags) rest
  | 0x05 => decodeData .writeData flags rest
  | 0x06 => decodeData .readData flags rest
  | 0x07 => decodeUnit (.recalibrate flags) rest
  | 0x08 => decodeBare (.senseInterruptStatus flags) rest
  | 0x09 => decodeData .writeDeletedData flags rest
  | 0x0A => decodeUnit (.readId flags) rest
  | 0x0C => decodeData .readDeletedData flags rest
  | 0x0D => decodeFormat flags rest
  | 0x0E => decodeBare (.dumpReg flags) rest
  | 0x0F => decodeTwo (.seek flags) rest
  | 0x10 => decodeBare (.version flags) rest
  | 0x11 => decodeData .scanEqual flags rest
  | 0x13 => decodeThree (.configure flags) rest
  | 0x14 => decodeBare (.lock flags) rest
  | 0x19 => decodeData .scanLowOrEqual flags rest
  | 0x1D => decodeData .scanHighOrEqual flags rest
  | _ => .error .unknownHostCommand

/-- The decoder: the instruction a request stands for, or the name of what is wrong with it. -/
def decode (r : Request) : Except DecodeError Instr :=
  match r.fmt, r.code with
  | .op, [b] => decodeOp b r
  | .state, [b] => .ok (decodeState b r)
  | .raw16, [lo, hi] => .ok (decodeRaw (hi ++ lo))
  | .mark16, [lo, hi] => decodeMark (hi ++ lo)
  | .am8, [b] => decodeMarkByte b
  | .flag, [b] => decodeFlag b
  | .hostcmd, op :: rest => decodeHost op rest
  | _, _ => .error .codeLength

/-- A request of format OP. -/
def encodeOp (code : Byte) (args : List Time) : Request := ⟨.op, [code], args⟩

/-- A request of format STATE. -/
def encodeState (code : Byte) (limit : Time) : Request := ⟨.state, [code], [limit]⟩

/-- A word of format RAW16 or MARK16, low byte first. -/
def encodeWord (fmt : Format) (w : Word) : Request := ⟨fmt, [w.extractLsb' 0 8, w.extractLsb' 8 8], []⟩

/-- A host command: its opcode byte, `flags` above the five command bits, and its argument bytes. -/
def encodeHost (flags : BitVec 3) (cmd : BitVec 5) (rest : List Byte) : Request :=
  ⟨.hostcmd, (flags ++ cmd) :: rest, []⟩

/-- A nine-byte data command. -/
def encodeData (cmd : BitVec 5) (a : DataArgs) : Request :=
  encodeHost a.flags cmd [a.hu, a.c, a.h, a.r, a.n, a.eot, a.gpl, a.dtl]

/-- A `u1` operand. -/
def bitOperand (b : Bool) : Time := .ticks b.toNat

/-- The encoder: the request of an instruction, from the same tables. -/
def encode : Instr → Request
  | .pllSetClock period => encodeOp 0x01 [.ticks period]
  | .pllReset t => encodeOp 0x02 [t]
  | .getNextBit limit => encodeOp 0x03 [limit]
  | .writeNextBit b limit => encodeOp 0x04 [bitOperand b, limit]
  | .startWriting tm => encodeOp 0x05 [tm]
  | .commit tm => encodeOp 0x06 [tm]
  | .stopWriting tm => encodeOp 0x07 [tm]
  | .encodeMfm v => encodeOp 0x08 [.ticks v.toNat]
  | .encodeFm v => encodeOp 0x09 [.ticks v.toNat]
  | .loadRaw w => encodeOp 0x0A [.ticks w.toNat]
  | .crcSeed => encodeOp 0x0B []
  | .crcBit b => encodeOp 0x0C [bitOperand b]
  | .crcByte v => encodeOp 0x0D [.ticks v.toNat]
  | .readOneBit limit => encodeOp 0x0E [limit]
  | .writeOneBit limit => encodeOp 0x0F [limit]
  | .liveStart d st => encodeOp 0x10 [.ticks d, .ticks (stateCode st)]
  | .liveRun limit => encodeOp 0x11 [limit]
  | .checkpoint => encodeOp 0x12 []
  | .rollback => encodeOp 0x13 []
  | .liveSync => encodeOp 0x14 []
  | .liveDelay st => encodeOp 0x15 [.ticks (stateCode st)]
  | .liveAbort => encodeOp 0x16 []
  | .reservedOp code => encodeOp code []
  | .idle limit => encodeState 0 limit
  | .searchAddressMarkHeader limit => encodeState 1 limit
  | .readHeaderBlockHeader limit => encodeState 2 limit
  | .readIdBlock limit => encodeState 3 limit
  | .searchAddressMarkData limit => encodeState 4 limit
  | .readDataBlockHeader limit => encodeState 5 limit
  | .readSectorData limit => encodeState 6 limit
  | .readSectorDataByte limit => encodeState 7 limit
  | .writeSectorSkipGap2 limit => encodeState 8 limit
  | .writeSectorData limit => encodeState 9 limit
  | .writeSectorDataByte limit => encodeState 10 limit
  | .writeTrackPreSectors limit => encodeState 11 limit
  | .writeTrackPreSectorsByte limit => encodeState 12 limit
  | .writeTrackSector limit => encodeState 13 limit
  | .writeTrackSectorByte limit => encodeState 14 limit
  | .writeTrackPostSectors limit => encodeState 15 limit
  | .writeTrackPostSectorsByte limit => encodeState 16 limit
  | .reservedState code => ⟨.state, [code], []⟩
  | .rawWord w => encodeWord .raw16 w
  | .mfmByte prev v => encodeWord .raw16 (mfmWord prev v)
  | .fmByte v => encodeWord .raw16 (fmWord v)
  | .syncMfm => encodeWord .mark16 0x4489
  | .syncFmId => encodeWord .mark16 0xF57E
  | .fmDam => encodeWord .mark16 0xF56F
  | .fmDdam => encodeWord .mark16 0xF56A
  | .mfmIam => encodeWord .mark16 0x5224
  | .fmIam => encodeWord .mark16 0xF77A
  | .amId => ⟨.am8, [0xFE], []⟩
  | .amData => ⟨.am8, [0xFB], []⟩
  | .amDdata => ⟨.am8, [0xF8], []⟩
  | .amIndex => ⟨.am8, [0xFC], []⟩
  | .fDamDeleted => ⟨.flag, [1], []⟩
  | .fDataMarkMissing => ⟨.flag, [2], []⟩
  | .fOverrun => ⟨.flag, [4], []⟩
  | .readTrack a => encodeData 0x02 a
  | .specify flags b1 b2 => encodeHost flags 0x03 [b1, b2]
  | .senseDriveStatus flags hu => encodeHost flags 0x04 [hu]
  | .writeData a => encodeData 0x05 a
  | .readData a => encodeData 0x06 a
  | .recalibrate flags hu => encodeHost flags 0x07 [hu]
  | .senseInterruptStatus flags => encodeHost flags 0x08 []
  | .writeDeletedData a => encodeData 0x09 a
  | .readId flags hu => encodeHost flags 0x0A [hu]
  | .readDeletedData a => encodeData 0x0C a
  | .formatTrack flags hu n sc gpl d => encodeHost flags 0x0D [hu, n, sc, gpl, d]
  | .dumpReg flags => encodeHost flags 0x0E []
  | .seek flags hu ncn => encodeHost flags 0x0F [hu, ncn]
  | .version flags => encodeHost flags 0x10 []
  | .scanEqual a => encodeData 0x11 a
  | .configure flags b1 b2 b3 => encodeHost flags 0x13 [b1, b2, b3]
  | .lock flags => encodeHost flags 0x14 []
  | .scanLowOrEqual a => encodeData 0x19 a
  | .scanHighOrEqual a => encodeData 0x1D a

/-- A host command's bytes from its first bytes, the bytes that are not given being 0. -/
def padCommand (op : Byte) (given : List Byte) : List Byte :=
  match commandLength op with
  | some n => op :: (given ++ List.replicate (n - 1 - given.length) 0)
  | none => op :: given

/-- The request of a bare table word of one byte. The table gives no format bits and its formats share code values:
the operations come first, then the states, the mark bytes, the host commands (log 5). -/
def byteRequest (b : Byte) : Request :=
  if !reservedOpCode b then ⟨.op, [b], []⟩
  else if !reservedStateByte b then ⟨.state, [b], []⟩
  else if (decodeMarkByte b).isOk then ⟨.am8, [b], []⟩
  else if (commandLength b).isSome then ⟨.hostcmd, padCommand b [], []⟩
  else ⟨.op, [b], []⟩

/-- The request of a bare table word of two bytes: the mark words first, then the words of bytes, then a host command
of six bytes or more with its head/unit byte (whose five high bits are 0), then a raw word (log 5). -/
def wordRequest (lo hi : Byte) : Request :=
  if (decodeMark (hi ++ lo)).isOk then ⟨.mark16, [lo, hi], []⟩
  else if isByteWord (hi ++ lo) then ⟨.raw16, [lo, hi], []⟩
  else if decide (hi.toNat < 8) && decide (6 ≤ (commandLength lo).getD 0) then ⟨.hostcmd, padCommand lo [hi], []⟩
  else ⟨.raw16, [lo, hi], []⟩

/-- The request of a bare table word: bit 0 is the least significant bit of its first byte. -/
def tableRequest (nbits w : Nat) : Request :=
  if nbits ≤ 8 then byteRequest (BitVec.ofNat 8 w)
  else wordRequest (BitVec.ofNat 8 w) (BitVec.ofNat 8 (w / 256))

/-- The instruction the decoder reads from a bare table word. -/
def decodeTableWord (nbits w : Nat) : Option Instr :=
  match decode (tableRequest nbits w) with
  | .ok i => some i
  | .error _ => none

end Sys2Proof
end

