-- ==== Sys2Proof/Config.lean ====
section
/-! DEFINITION. What an implementation fixes: the parameters of 00_scope R8, and the values the spec leaves open
(opaque constants without a body). -/

namespace Sys2Proof

/-- A parameter that has one value in MFM and one in FM. -/
structure PerMode (α : Type) where
  mfm : α
  fm  : α
  deriving DecidableEq, Repr

/-- The value of a parameter for the mode in use. -/
def PerMode.get {α : Type} (p : PerMode α) : Mode → α
  | .mfm => p.mfm
  | .fm => p.fm

/-- The parameters of 00_scope R8, which a model takes as arguments. `pllMaxPhaseAdj` is NONE for R8's reference,
`min_period - 1`. -/
structure Params where
  ndrives       : Nat
  fifoSize      : Nat
  cmdBufLen     : Nat
  resBufLen     : Nat
  tickHz        : Nat
  rate          : Nat
  pllPhaseNum   : Nat
  pllPhaseDen   : Nat
  pllFreqNum    : Nat
  pllFreqDen    : Nat
  pllMinNum     : Nat
  pllMinDen     : Nat
  pllMaxNum     : Nat
  pllMaxDen     : Nat
  pllFreqHistMin : Nat
  pllMaxPhaseAdj : Option Nat
  wbufLen       : Nat
  syncMfm       : Word
  syncFmId      : Word
  fmDam         : Word
  fmDdam        : Word
  mfmIam        : Word
  fmIam         : Word
  mfmSyncCount  : Nat
  amId          : Byte
  amData        : Byte
  amDdata       : Byte
  amIndex       : Byte
  crcPoly       : Word
  crcInit       : Word
  damWindowLen  : PerMode Nat
  damWindowOpen : PerMode Nat
  gap2Len       : PerMode Nat
  syncLen       : PerMode Nat
  gapFill       : PerMode Byte
  postGapLen    : Nat
  gap4aLen      : PerMode Nat
  gap1Len       : PerMode Nat
  safetyNet     : Nat
  idIndexLimit  : Nat
  counterBits   : Nat
  deriving DecidableEq, Repr

/-- The reference values of 00_scope R8. -/
def Params.reference : Params where
  ndrives := 4
  fifoSize := 16
  cmdBufLen := 16
  resBufLen := 16
  tickHz := 1000000000
  rate := 250000
  pllPhaseNum := 65
  pllPhaseDen := 100
  pllFreqNum := 5
  pllFreqDen := 100
  pllMinNum := 75
  pllMinDen := 100
  pllMaxNum := 125
  pllMaxDen := 100
  pllFreqHistMin := 2
  pllMaxPhaseAdj := none
  wbufLen := 32
  syncMfm := 0x4489
  syncFmId := 0xF57E
  fmDam := 0xF56F
  fmDdam := 0xF56A
  mfmIam := 0x5224
  fmIam := 0xF77A
  mfmSyncCount := 3
  amId := 0xFE
  amData := 0xFB
  amDdata := 0xF8
  amIndex := 0xFC
  crcPoly := 0x1021
  crcInit := 0xFFFF
  damWindowLen := ⟨448, 176⟩
  damWindowOpen := ⟨352, 176⟩
  gap2Len := ⟨22, 11⟩
  syncLen := ⟨12, 6⟩
  gapFill := ⟨0x4E, 0xFF⟩
  postGapLen := 1
  gap4aLen := ⟨80, 40⟩
  gap1Len := ⟨50, 26⟩
  safetyNet := 1000000
  idIndexLimit := 2
  counterBits := 32

/-- What Status Registers A and B show: the signals of 47_host_interface R337 for the selected drive, with the data rate
that the "slow drive" indicator is made from (47_host_interface R336). -/
structure Lines where
  intrq     : Bool
  drq       : Bool
  tc        : Bool
  motor     : BitVec 4
  select    : BitVec 2
  step      : Bool
  direction : Bool
  writeGate : Bool
  headLoad  : Bool
  track0    : Bool
  index     : Bool
  wp        : Bool
  ready     : Bool
  rate      : Nat
  deriving DecidableEq, Repr

namespace Config

/-- A byte whose value the spec does not state (the n-th one used, `State.freeCount`); log 14, log 25, log 27, log 34. -/
opaque freeByte : Nat → Byte

/-- `cfg.sector_size` for a size code of 8 or more, which "has no defined size in this spec" (30_encoding R119); log 26. -/
opaque sectorSizeBeyond : Byte → Nat

/-- Whether the FIFO "needs host service": fill, threshold field and direction (true = to the host). The comparison
is not in the source (20_memory R83, 91_not_in_source N12); log 27. -/
opaque fifoNeedsService : Nat → BitVec 4 → Bool → Bool

/-- Ticks between two step pulses for a step-rate field of SPECIFY; not in the source (91_not_in_source N32); log 20. -/
opaque stepInterval : BitVec 4 → Nat

/-- Ticks the head takes to load, for a head-load field of SPECIFY; not in the source (46_command_engine R294,
91_not_in_source N37); log 36. -/
opaque headLoadTime : BitVec 7 → Nat

/-- Ticks the head stays loaded after a command, for a head-unload field of SPECIFY; not in the source
(46_command_engine R294, 91_not_in_source N37); log 36. -/
opaque headUnloadTime : BitVec 4 → Nat

/-- Status Register A as a view of the lines: "bit positions are not given and vary by variant"
(47_host_interface R336); log 27. -/
opaque statusRegisterA : Lines → Byte

/-- Status Register B as a view of the lines (47_host_interface R336); log 27. -/
opaque statusRegisterB : Lines → Byte

/-- The bound on seek retries; not in the source (91_not_in_source N32, 93 part 1.1); log 20. -/
opaque seekRetryBound : Nat

end Config

end Sys2Proof
end

