-- ==== Sys2Proof/Machine/State.lean ====
section
/-! DEFINITION. The state: the block's (live, pll, snap, cfg) of 10_state, the collaborators as far as the spec gives
them, and what arrives from outside; the reasons a step can stop; the state after reset. -/

namespace Sys2Proof.Machine

/-- Why the machine stops with a fault. -/
inductive Fault where
  /-- WRITE_NEXT_BIT of a 1 cell with WBUF_LEN transitions buffered: "a fault of the model (an assertion that the
  protocol was broken)" (41_write_encoder R177). Raised by the write step. Safe. -/
  | writeBufferOverflow
  deriving DecidableEq, Repr

/-- Why the machine refuses (`refuse` of 00_scope R12: no step). -/
inductive Refusal where
  /-- No meaning yet for the instruction of this mnemonic. Raised by `exec`. Safe. -/
  | notModelled (mnemonic : String)
  /-- A reserved operation code (30_encoding R139). Raised by RESERVED_OP. Safe. -/
  | reservedOperation (code : Byte)
  /-- A reserved state code (30_encoding R139). Raised by RESERVED_STATE. Safe. -/
  | reservedStateCode (code : Byte)
  /-- A request that decodes to no instruction (92 D35). Raised by the fetch. Safe. -/
  | badRequest (why : DecodeError)
  /-- PLL_SET_CLOCK with a period below 2 (40_pll R150). Safe. -/
  | clockPeriodTooShort
  /-- COMMIT with a time not after the span's start or a buffered transition (41_write_encoder R175). Safe. -/
  | commitOutOfOrder
  /-- LIVE_START while a drive is live (45_live_control R261). Safe. -/
  | startWhileLive
  /-- LIVE_START with a state that is no entry state (45_live_control R261). Safe. -/
  | notAnEntryState
  /-- LIVE_START with a drive number of NDRIVES or more (45_live_control R261, 92 D35). Safe. -/
  | driveOutOfRange
  /-- LIVE_START of a format with `cfg.fmt_sectors` = 0 (44_write_states R241). Safe. -/
  | formatWithoutSectors
  /-- CHECKPOINT with `live.tm` > `now` (45_live_control R264). Safe. -/
  | checkpointAhead
  /-- A load state or READ_SECTOR_DATA_BYTE with `live.tm` ≠ `now` (45_live_control R262). Safe. -/
  | notConfirmed
  /-- LIVE_DELAY with `live.tm` < `now` (45_live_control R266). Safe. -/
  | delayInThePast
  /-- A `_HEADER` state in FM mode (43_read_states R203, R206). Safe. -/
  | headerStateInFm
  /-- A host write at offset 6, or a host access above 7 (47_host_interface R331); log 30. Safe. -/
  | noSuchOffset
  deriving DecidableEq, Repr

/-- The ID buffer, `live.idbuf[0..5]` (10_state R27). -/
structure IdBuf where
  b0 : Byte
  b1 : Byte
  b2 : Byte
  b3 : Byte
  b4 : Byte
  b5 : Byte
  deriving DecidableEq, Repr

/-- The live context (10_state R21, R23, R25, R27). -/
structure Live where
  shiftReg    : Word
  wsr         : Word
  crc         : Word
  bitCounter  : Nat
  byteCounter : Nat
  dataReg     : Byte
  idbuf       : IdBuf
  state       : LiveState
  nextState   : Option LiveState
  tm          : Time
  drive       : Option Nat
  flags       : BitVec 3
  deriving DecidableEq, Repr

/-- The PLL and the flux write buffer (10_state R30, R31, R32). `wbuf` holds the buffered transitions, so
`pll.write_position` is its length (log 10). -/
structure Pll where
  ctime       : Time
  period      : Nat
  phaseAdjust : Int
  freqHist    : Int
  nominal     : Nat
  adjBase     : Nat
  minPeriod   : Nat
  maxPeriod   : Nat
  maxAdj      : Nat
  writeStart  : Time
  wbuf        : List Time
  deriving DecidableEq, Repr

/-- The checkpoint (10_state R33). -/
structure Snapshot where
  live : Live
  pll  : Pll
  deriving DecidableEq, Repr

/-- The configuration (10_state R40). -/
structure Cfg where
  mode        : Mode
  cellNominal : Nat
  sectorSize  : Nat
  damDeleted  : Bool
  tcDone      : Bool
  fmtSectors  : Byte
  fmtFill     : Byte
  fmtGap3     : Byte
  deriving DecidableEq, Repr

/-- A medium's time axis: the times at which something happens there, strictly rising. A time that is not listed
carries nothing (20_memory R70, log 8). -/
abbrev Memory := List Nat

/-- The canonical form of `Memory`: strictly rising. -/
def Memory.wf : Memory → Bool
  | [] => true
  | a :: rest => rest.all (fun b => decide (a < b)) && Memory.wf rest

/-- The medium under the head of a drive and the drive's signals (20_memory R70, R74; 47_host_interface R339). -/
structure Medium where
  flux    : Memory
  index   : Memory
  present : Bool
  wp      : Bool
  ready   : Bool
  track0  : Bool
  side    : Bool
  dskchg  : Bool
  deriving DecidableEq, Repr

/-- The per-drive `main_state` (10_state R42). -/
inductive MainState where
  | idle
  | recalibrate
  | seek
  | readData
  | writeData
  | readTrack
  | formatTrack
  | readId
  | scanData
  deriving DecidableEq, Repr

/-- The per-drive `sub_state` (10_state R42): the seven members the document lists, the write counterpart of SECTOR_READ
(46_command_engine R308), and one for those it leaves behind its "etc." (91_not_in_source N27). -/
inductive SubState where
  | commandDone
  | seekMove
  | seekWaitStepSignalTime
  | headLoadDone
  | scanId
  | sectorRead
  | sectorWrite
  | trackDone
  | unlisted
  deriving DecidableEq, Repr

/-- A Per-Drive Slot with the medium attached to it (10_state R42, 46_command_engine R293, R309). `st0` is the ST0 last
reported for the drive, `pending` a status not yet collected; `retries` and `searchRetries` are the counters of seek and
search retries (60_exceptions R367), of no given width and here without bound (log 20, log 24). `steps` counts the
pulses of the step output, `dirOut` is the direction output (true = toward higher cylinders); `target` and `stepAt` are
the model's own seek timer (log 20). -/
structure Drive where
  med           : Medium
  mainState     : MainState
  subState      : SubState
  pcn           : Byte
  st0           : Byte
  pending       : Option Byte
  dirOut        : Bool
  retries       : Nat
  searchRetries : Nat
  steps         : Nat
  target        : Byte
  stepAt        : Option Nat
  deriving DecidableEq, Repr

/-- The macro-phases (46_command_engine R290). -/
inductive Phase where
  | command
  | execution
  | result
  deriving DecidableEq, Repr

/-- The commands with an execution or result phase the Command Engine must remember. -/
inductive JobKind where
  | none
  | readData
  | readDeleted
  | writeData
  | writeDeleted
  | readId
  | format
  | undescribed
  | senseInterrupt
  | other
  deriving DecidableEq, Repr

/-- Where a command stands in its execution (46_command_engine R296 to R301, R308). -/
inductive JobStep where
  | none
  | headLoad
  | scanId
  | dataField
  | formatWait
  | formatting
  | draining
  deriving DecidableEq, Repr

/-- The command in execution: its target and parameters (46_command_engine R291), the index pulse count and the ID
status bits gathered so far (R296). -/
structure Job where
  kind : JobKind
  step : JobStep
  unit : BitVec 2
  hd   : Bool
  mt   : Bool
  c    : Byte
  h    : Byte
  r    : Byte
  n    : Byte
  eot  : Byte
  idx  : Nat
  st1  : Byte
  st2  : Byte
  deriving DecidableEq, Repr

/-- The Controller (10_state R41, R45; 46_command_engine; 47_host_interface). `rate` is the data rate in bits per
second; `spec1`, `spec2` are SPECIFY's bytes, `conf1..3` CONFIGURE's; `headAt` is the model's own head timer (log 36). -/
structure Controller where
  phase    : Phase
  cmdBuf   : List Byte
  resBuf   : List Byte
  st0      : Byte
  st1      : Byte
  st2      : Byte
  st3      : Byte
  dor      : Byte
  tdr      : Byte
  dsr      : Byte
  ccr      : Byte
  rate     : Nat
  tc       : Bool
  lock     : Bool
  spec1    : Byte
  spec2    : Byte
  conf1    : Byte
  conf2    : Byte
  conf3    : Byte
  intrq    : Bool
  headLoad : Bool
  headAt   : Option Nat
  job      : Job
  deriving DecidableEq, Repr

/-- The outcomes of operations and state rules (00_scope R13, 30_encoding R136); `none` for an operation whose row
gives no outcome. The model's own register (log 13). -/
inductive OpOutcome where
  | none
  | bit0
  | bit1
  | noBit
  | ok
  | wouldExceed
  | cont1
  | suspend
  | cont
  | suspended
  | delayed
  | idle
  | notRunning
  deriving DecidableEq, Repr

/-- What happens to the controller from outside (45_live_control R269, 47_host_interface, 20_memory R70). -/
inductive Event where
  /-- The terminal-count line is asserted. -/
  | tc
  /-- A drive's ready line drops. -/
  | notReady (d : Nat)
  /-- A drive's ready line rises. -/
  | nowReady (d : Nat)
  | hardReset
  | softReset
  /-- A host (CPU or DMA) write of a register. -/
  | hostWrite (off : Nat) (v : Byte)
  /-- A host (CPU or DMA) read of a register. -/
  | hostRead (off : Nat)
  /-- The host side of the FIFO alone (45_live_control R269 "host FIFO access"). -/
  | fifoPut (v : Byte)
  | fifoGet
  /-- The client writes the block's configuration (45_live_control R260 step 1). -/
  | setCfg (c : Cfg)
  /-- The medium of a drive, with its signals, becomes this one. -/
  | attach (d : Nat) (m : Medium)
  /-- The client issues a request at this time. -/
  | operate (r : Request)
  deriving DecidableEq, Repr

/-- What the Command Engine does after the LIVE_SYNC that an event begins with, after a LIVE_RUN or a LIVE_ABORT it
issued (45_live_control R260 steps 4 and 5, R269), and at the step of a command that needs the engine no more
(46_command_engine R308). -/
inductive ClientStep where
  | afterRun
  | afterWake
  | afterIndex
  | afterTc
  | afterNotReady (d : Nat)
  | headLoaded
  | beginSearch
  | complete (st0 st1 st2 : Byte)
  | formatDone
  | trackDone
  | reportNotReady (d : Nat)
  | undescribedDone
  deriving DecidableEq, Repr

/-- What stands in the inbox: a request to issue now, a step of the Command Engine to take now, an event at a time. -/
inductive Input where
  | request (r : Request)
  | client (c : ClientStep)
  | event (time : Nat) (e : Event)
  deriving DecidableEq, Repr

/-- The machine. `live`, `pll`, `snap`, `cfg` are the block (10_state R20); `now`, `wakeups`, `fifo`, `drives`, `ctrl`
the collaborators; the rest is the model's own (INVENTORY.md). -/
structure State where
  par       : Params
  live      : Live
  pll       : Pll
  snap      : Snapshot
  cfg       : Cfg
  now       : Nat
  wakeups   : List Nat
  fifo      : List Byte
  drives    : List Drive
  ctrl      : Controller
  inbox     : List Input
  outcome   : OpOutcome
  hostData  : Byte
  freeCount : Nat
  idxDone   : Nat
  resetAt   : Option Nat
  deriving DecidableEq, Repr

/-- The live context after reset (10_state R51). -/
def Live.reset : Live where
  shiftReg := 0
  wsr := 0
  crc := 0xFFFF
  bitCounter := 0
  byteCounter := 0
  dataReg := 0
  idbuf := ⟨0, 0, 0, 0, 0, 0⟩
  state := .idle
  nextState := none
  tm := .never
  drive := none
  flags := 0

/-- The PLL after reset with the reference parameters: "as after PLL_SET_CLOCK(cfg.cell_nominal)", 2000 ticks
(10_state R51). -/
def Pll.reset : Pll where
  ctime := .ticks 0
  period := 2000
  phaseAdjust := 0
  freqHist := 0
  nominal := 2000
  adjBase := 100
  minPeriod := 1500
  maxPeriod := 2500
  maxAdj := 1499
  writeStart := .never
  wbuf := []

/-- The configuration after a hard reset (10_state R40, reset column). -/
def Cfg.reset : Cfg where
  mode := .mfm
  cellNominal := 2000
  sectorSize := 512
  damDeleted := false
  tcDone := false
  fmtSectors := 0
  fmtFill := 0
  fmtGap3 := 0

/-- No medium attached; DESIGN CHOICE, log 8. -/
def Medium.none : Medium where
  flux := []
  index := []
  present := false
  wp := false
  ready := false
  track0 := false
  side := false
  dskchg := false

/-- A drive slot after reset with a medium; DESIGN CHOICE, log 15. -/
def Drive.reset (m : Medium) : Drive where
  med := m
  mainState := .idle
  subState := .commandDone
  pcn := 0
  st0 := 0
  pending := Option.none
  dirOut := false
  retries := 0
  searchRetries := 0
  steps := 0
  target := 0
  stepAt := Option.none

/-- No command in execution. -/
def Job.empty : Job where
  kind := .none
  step := .none
  unit := 0
  hd := false
  mt := false
  c := 0
  h := 0
  r := 0
  n := 0
  eot := 0
  idx := 0
  st1 := 0
  st2 := 0

/-- The Controller after a hard reset; the values the spec does not give are DESIGN CHOICE, log 15 and log 16. -/
def Controller.reset (rate : Nat) : Controller where
  phase := .command
  cmdBuf := []
  resBuf := []
  st0 := 0
  st1 := 0
  st2 := 0
  st3 := 0
  dor := 0x04
  tdr := 0
  dsr := 0x02
  ccr := 0x02
  rate := rate
  tc := false
  lock := false
  spec1 := 0
  spec2 := 0
  conf1 := 0
  conf2 := 0
  conf3 := 0
  intrq := false
  headLoad := false
  headAt := Option.none
  job := Job.empty

/-- The machine right after reset (10_state R51, 70_reset_and_hazards R390), with the reference parameters. -/
def State.reset : State where
  par := Params.reference
  live := Live.reset
  pll := Pll.reset
  snap := ⟨Live.reset, Pll.reset⟩
  cfg := Cfg.reset
  now := 0
  wakeups := []
  fifo := []
  drives := [Drive.reset Medium.none, Drive.reset Medium.none, Drive.reset Medium.none, Drive.reset Medium.none]
  ctrl := Controller.reset 250000
  inbox := []
  outcome := .none
  hostData := 0
  freeCount := 0
  idxDone := 0
  resetAt := Option.none

end Sys2Proof.Machine
end

