-- ==== Sys2Proof/Machine/Flags.lean ====
section
/-! DEFINITION. The CRC (42_crc R190 to R195), the condition flags (10_state R25, 60_exceptions R352 to R356) and the
bits of the status bytes (46_command_engine R307). -/

namespace Sys2Proof.Machine

/-- `CrcBit(c, b)` with the polynomial CRC_POLY (42_crc R190). -/
def crcStep (poly c : Word) (b : Bool) : Word :=
  if c.getLsbD 15 ^^ b then (c <<< 1) ^^^ poly else c <<< 1

/-- `CrcBit` folded over bits, first bit first. -/
def crcBits (poly c : Word) (bits : List Bool) : Word := bits.foldl (crcStep poly) c

/-- `CrcByte(c, v)`: most significant bit first (42_crc R191). -/
def crcOfByte (poly c : Word) (v : Byte) : Word := crcBits poly c (bitsOf v)

/-- The CRC seed at a recognised sync word: `CrcByte(CRC_INIT, DataByte(w))` (42_crc R192). -/
def crcSeedWord (par : Params) (w : Word) : Word := crcOfByte par.crcPoly par.crcInit (dataByte w)

/-- The high byte of the CRC, the next CRC byte on the medium (20_memory R86, 42_crc R195). -/
def crcHigh (c : Word) : Byte := c.extractLsb' 8 8

/-- F_DAM_DELETED, bit 0 of `live.flags` (30_encoding R136). -/
def flagDamDeleted : BitVec 3 := 1

/-- F_DATA_MARK_MISSING, bit 1 of `live.flags` (30_encoding R136). -/
def flagDataMarkMissing : BitVec 3 := 2

/-- F_OVERRUN, bit 2 of `live.flags` (30_encoding R136). -/
def flagOverrun : BitVec 3 := 4

/-- `raise COND`: `live.flags <- live.flags or COND` and nothing more (60_exceptions R352). -/
def raise (f : BitVec 3) (s : State) : State := { s with live := { s.live with flags := s.live.flags ||| f } }

/-- The flag is set. -/
def hasFlag (f : BitVec 3) (s : State) : Bool := (s.live.flags &&& f) != 0

/-! Bits of the status bytes, the usual layout of 46_command_engine R307. -/

/-- ST0 IC = 01, abnormal termination. -/
def st0Abnormal : Byte := 0x40
/-- ST0 IC = 10, invalid command (46_command_engine R292). -/
def st0Invalid : Byte := 0x80
/-- ST0 IC = 11, also the "unknown" ST0 with the top two bits set (46_command_engine R293). -/
def st0TopTwo : Byte := 0xC0
/-- ST0 SE, seek end. -/
def st0SeekEnd : Byte := 0x20
/-- ST0 EC, equipment check. -/
def st0Equipment : Byte := 0x10
/-- ST0 NR, not ready. -/
def st0NotReady : Byte := 0x08
/-- ST1 EN, end of cylinder. -/
def st1EndOfCylinder : Byte := 0x80
/-- ST1 DE, data error (CRC). -/
def st1DataError : Byte := 0x20
/-- ST1 OR, overrun. -/
def st1Overrun : Byte := 0x10
/-- ST1 ND, no data. -/
def st1NoData : Byte := 0x04
/-- ST1 NW, not writable. -/
def st1NotWritable : Byte := 0x02
/-- ST1 MA, missing address mark. -/
def st1MissingMark : Byte := 0x01
/-- ST2 CM, control mark. -/
def st2ControlMark : Byte := 0x40
/-- ST2 DD, data error in data field. -/
def st2DataError : Byte := 0x20
/-- ST2 WC, wrong cylinder. -/
def st2WrongCylinder : Byte := 0x10
/-- ST2 BC, bad cylinder. -/
def st2BadCylinder : Byte := 0x02
/-- ST2 MD, missing address mark in data field. -/
def st2MissingMark : Byte := 0x01

/-- The HD and US bits of ST0 and ST3: head in bit 2, unit in bits 1:0. -/
def headUnit (hd : Bool) (u : BitVec 2) : Byte := (BitVec.ofBool hd).zeroExtend 8 <<< 2 ||| u.zeroExtend 8

end Sys2Proof.Machine
end

