-- ==== Sys2Proof/Machine/Operands.lean ====
section
/-! DEFINITION. Operand forms: the items of the write tables (44_write_states R231, R233, R236, R239), the fields of
the host command bytes (46_command_engine R291 to R295), sizes and cell lengths (30_encoding R119, 00_scope R8). -/

namespace Sys2Proof.Machine

/-- The item kinds of 44_write_states R231. -/
inductive Item where
  | fill (v : Byte)
  | raw (w : Word)
  | rawSeed (w : Word)
  | data
  | crc
  | stop
  deriving DecidableEq, Repr

/-- Item `k` of a table given as runs of equal items; END after the last run. -/
def itemAt : List (Nat × Item) → Nat → Item
  | [], _ => .stop
  | (n, i) :: rest, k => if k < n then i else itemAt rest (k - n)

/-- The number of items of a table. -/
def itemCount (runs : List (Nat × Item)) : Nat := (runs.map Prod.fst).sum

/-- The runs of a mark: in MFM the sync words and the mark byte, in FM the one mark word (30_encoding R115). The first
sync word, which seeds the CRC, is written even with MFM_SYNC_COUNT = 0 (log 55). -/
def markRuns (par : Params) (mode : Mode) (am : Byte) (fmWord : Word) : List (Nat × Item) :=
  match mode with
  | .mfm => [(1, .rawSeed par.syncMfm), (par.mfmSyncCount - 1, .raw par.syncMfm), (1, .fill am)]
  | .fm => [(1, .rawSeed fmWord)]

/-- The table of a sector write (44_write_states R233). -/
def sectorRuns (par : Params) (cfg : Cfg) : List (Nat × Item) :=
  [(par.syncLen.get cfg.mode, .fill 0)]
  ++ markRuns par cfg.mode (if cfg.damDeleted then par.amDdata else par.amData)
      (if cfg.damDeleted then par.fmDdam else par.fmDam)
  ++ [(cfg.sectorSize, .data), (2, .crc), (par.postGapLen, .fill (par.gapFill.get cfg.mode))]

/-- The table before the first sector of a format; its three MFM_IAM words are R236's own count, whatever MFM_SYNC_COUNT
is (44_write_states R236). The index mark has no CRC. -/
def preRuns (par : Params) (mode : Mode) : List (Nat × Item) :=
  [(par.gap4aLen.get mode, .fill (par.gapFill.get mode)), (par.syncLen.get mode, .fill 0)]
  ++ (match mode with
      | .mfm => [(3, .raw par.mfmIam), (1, .fill par.amIndex)]
      | .fm => [(1, .raw par.fmIam)])
  ++ [(par.gap1Len.get mode, .fill (par.gapFill.get mode))]

/-- The table of one formatted sector; its data field has `cfg.sector_size` bytes, whatever N its ID carries
(44_write_states R239, 30_encoding R122, log 60). -/
def formatRuns (par : Params) (cfg : Cfg) : List (Nat × Item) :=
  [(par.syncLen.get cfg.mode, .fill 0)]
  ++ markRuns par cfg.mode par.amId par.syncFmId
  ++ [(4, .data), (2, .crc), (par.gap2Len.get cfg.mode, .fill (par.gapFill.get cfg.mode)),
      (par.syncLen.get cfg.mode, .fill 0)]
  ++ markRuns par cfg.mode par.amData par.fmDam
  ++ [(cfg.sectorSize, .fill cfg.fmtFill), (2, .crc), (cfg.fmtGap3.toNat, .fill (par.gapFill.get cfg.mode))]

/-- PRE_LEN (44_write_states R236). -/
def preLen (par : Params) (mode : Mode) : Nat := itemCount (preRuns par mode)

/-- ITEM_LEN (44_write_states R239). -/
def itemLen (par : Params) (cfg : Cfg) : Nat := itemCount (formatRuns par cfg)

/-- The mark word of a mark byte in FM: the word whose DataByte it is (30_encoding R115, R116). -/
def fmMarkWord (par : Params) : Fin 4 → Word
  | 0 => par.syncFmId
  | 1 => par.fmDam
  | 2 => par.fmDdam
  | 3 => par.fmIam

/-! Fields of the host command bytes, the usual layout of 46_command_engine R291, R294, R295. -/

/-- MT, bit 7 of the opcode byte. -/
def flagMt (f : BitVec 3) : Bool := f.getLsbD 2

/-- The mode of the MFM bit, bit 6 of the opcode byte (46_command_engine R297). -/
def flagMode (f : BitVec 3) : Mode := if f.getLsbD 1 then .mfm else .fm

/-- US, bits 1:0 of the head/unit byte. -/
def unitOf (hu : Byte) : BitVec 2 := hu.extractLsb' 0 2

/-- HD, bit 2 of the head/unit byte. -/
def headOf (hu : Byte) : Bool := hu.getLsbD 2

/-- The sector size of a size code: `128 << N` for N = 0..7; N of 8 or more has no defined size and gives an open
value (30_encoding R119, log 26). -/
def sectorSizeOf (n : Byte) : Nat := if n.toNat < 8 then 128 <<< n.toNat else Config.sectorSizeBeyond n

/-- CELL_NOMINAL: TICK_HZ/(2×RATE) in MFM, TICK_HZ/RATE in FM (00_scope R8), as the nearest whole number of ticks, a half
rounded up: the rounding is the model's DESIGN CHOICE, log 45. -/
def cellNominalOf (par : Params) (rate : Nat) : Mode → Nat
  | .mfm => (par.tickHz + rate) / (2 * rate)
  | .fm => (2 * par.tickHz + rate) / (2 * rate)

/-- The data rate of the low two bits of Data Rate Select and Configuration Control (47_host_interface R334). -/
def rateOfCode (v : Byte) : Nat :=
  match (v.extractLsb' 0 2).toNat with
  | 0 => 500000
  | 1 => 300000
  | 2 => 250000
  | _ => 1000000

end Sys2Proof.Machine
end

