-- ==== Sys2Proof/Machine/Ops.lean ====
section
/-! DEFINITION. The named operations the meanings share: state updates, the medium and the FIFO (20_memory), the PLL and
the write buffer (40_pll, 41_write_encoder), checkpoint and rollback, the deferred transition and the transition to
IDLE that every condition ends in (45_live_control, 60_exceptions R363). -/

namespace Sys2Proof.Machine

/-- Why an operation does not complete. -/
inductive Stop where
  | fault (f : Fault)
  | refused (r : Refusal)
  deriving DecidableEq, Repr

/-- The result of an operation: a value, or a stop. -/
abbrev Res (α : Type) := Except Stop α

/-- The step outcome of an operation. -/
def finish : Res State → Host.Outcome State Fault Refusal
  | .ok s => .next s
  | .error (.fault f) => .fault f
  | .error (.refused r) => .refused r

/-- A refusal (00_scope R12 `refuse`). -/
def refuse {α : Type} (r : Refusal) : Res α := .error (.refused r)

/-! State updates. -/

def State.setLive (s : State) (l : Live) : State := { s with live := l }
def State.setPll (s : State) (p : Pll) : State := { s with pll := p }
def State.setCtrl (s : State) (c : Controller) : State := { s with ctrl := c }
def State.setFifo (s : State) (q : List Byte) : State := { s with fifo := q }
def State.setOutcome (s : State) (o : OpOutcome) : State := { s with outcome := o }

/-- The slot of drive `d`; a drive that does not exist has no medium. -/
def State.drive (s : State) (d : Nat) : Drive := s.drives.getD d (Drive.reset Medium.none)

/-- The slot of drive `d` becomes `x`. -/
def State.setDrive (s : State) (d : Nat) (x : Drive) : State := { s with drives := s.drives.set d x }

/-- An operation ends with an outcome. -/
def withOutcome (r : Res (State × OpOutcome)) : Res State := r.map fun x => x.1.setOutcome x.2

/-- Requests and client steps to take before anything else that waits. -/
def State.issue (s : State) (xs : List Input) : State := { s with inbox := xs ++ s.inbox }

/-- A byte whose value the spec does not state: the next free value (log 14). -/
def takeFree (s : State) : Byte × State := (Config.freeByte s.freeCount, { s with freeCount := s.freeCount + 1 })

/-- `n` free bytes. -/
def takeFrees : Nat → State → List Byte × State
  | 0, s => ([], s)
  | n + 1, s =>
    let (b, s) := takeFree s
    let (bs, s) := takeFrees n s
    (b :: bs, s)

/-! The configuration (10_state R40, 70_reset_and_hazards R402). -/

/-- The live context with its data registers, counters and flags at given bytes; where the sequencer stands, on which
drive and at what time stays. -/
def Live.scramble (par : Params) (v : Nat → Byte) (l : Live) : Live :=
  { l with
    shiftReg := v 0 ++ v 1
    wsr := v 2 ++ v 3
    crc := v 4 ++ v 5
    bitCounter := (v 6 ++ v 7 ++ v 8 ++ v 9).toNat % 2 ^ par.counterBits
    byteCounter := (v 10 ++ v 11 ++ v 12 ++ v 13).toNat % 2 ^ par.counterBits
    dataReg := v 14
    idbuf := ⟨v 15, v 16, v 17, v 18, v 19, v 20⟩
    flags := (v 21).extractLsb' 0 3 }

/-- The hazard of 70_reset_and_hazards R402, "any value for everything the run produces after the change"
(93_implementation_defined): what the run carries along becomes free values, once, at the change (log 34). -/
def disturb (s : State) : State :=
  let v := fun i => Config.freeByte (s.freeCount + i)
  { s with
    live := s.live.scramble s.par v
    snap := { s.snap with live := s.snap.live.scramble s.par v }
    freeCount := s.freeCount + 22 }

/-- The writes of `cfg` that R402 allows: any while no drive is live, one that changes nothing, and, directly after a
checkpoint, setting `cfg.tc_done`. -/
def cfgWriteAllowed (c : Cfg) (s : State) : Bool :=
  s.live.drive.isNone || decide (c = s.cfg)
    || decide (c = { s.cfg with tcDone := true } ∧ s.snap = ⟨s.live, s.pll⟩)

/-- `cfg` is written (70_reset_and_hazards R402). No value is checked against the ranges of 10_state R40 (log 46). -/
def writeCfg (c : Cfg) (s : State) : State :=
  if cfgWriteAllowed c s then { s with cfg := c } else disturb { s with cfg := c }

/-! The medium's time axis (20_memory R70 to R73). -/

/-- A transition (or index instant) at time `t`: the read of one place. -/
def Memory.has (m : Memory) (t : Nat) : Bool := m.contains t

/-- The least listed time strictly after `t`, or NEVER (20_memory R71, R73). -/
def Memory.next : Memory → Nat → Time
  | [], _ => .never
  | x :: rest, t => if t < x then .ticks x else Memory.next rest t

/-- The least listed time not before `t`, or NEVER. -/
def Memory.nextFrom : Memory → Nat → Time
  | [], _ => .never
  | x :: rest, t => if t ≤ x then .ticks x else Memory.nextFrom rest t

/-- The set with `x` in it. -/
def Memory.insert : Memory → Nat → Memory
  | [], x => [x]
  | y :: rest, x => if x < y then x :: y :: rest else if x = y then y :: rest else y :: Memory.insert rest x

/-- The least listed time after the time `t`; there is none after NEVER (00_scope R10). -/
def Memory.after (m : Memory) : Time → Time
  | .never => .never
  | .ticks n => m.next n

/-- `x` lies in the half-open span [s, e). -/
def inSpan (s : Nat) (e : Time) (x : Nat) : Bool := decide (s ≤ x) && Time.lt (.ticks x) e

/-- `(m minus {x | s ≤ x < e}) union L` (20_memory R72). -/
def Memory.writeSpan (m : Memory) (s : Nat) (e : Time) (l : List Nat) : Memory :=
  l.foldl Memory.insert (m.filter fun x => !inSpan s e x)

/-- The set with the listed times, whatever their order. -/
def Memory.ofTimes (l : List Nat) : Memory := l.foldl Memory.insert []

/-- The drive whose medium the block sees: the live drive; while none is live, the drive the Digital Output Register
selects (log 9). -/
def State.currentDrive (s : State) : Nat := s.live.drive.getD (unitOf s.ctrl.dor).toNat

/-- The medium under the head of the current drive. -/
def State.medium (s : State) : Medium := (s.drive s.currentDrive).med

/-- `MediumNext(t)` (20_memory R71, R75). -/
def mediumNext (s : State) (t : Time) : Time :=
  if s.medium.present then s.medium.flux.after t else .never

/-- `MediumNextIndex(t)` (20_memory R73, R75). -/
def mediumNextIndex (s : State) (t : Nat) : Time :=
  if s.medium.present then s.medium.index.next t else .never

/-- A medium after `MediumWrite(b, e, l)`: no effect when it is absent or write-protected (20_memory R72). -/
def Medium.write (m : Medium) (b : Nat) (e : Time) (l : List Nat) : Medium :=
  if m.present && !m.wp then { m with flux := m.flux.writeSpan b e l } else m

/-- `MediumWrite(b, e, l)` on the current drive (20_memory R72). -/
def mediumWrite (b : Nat) (e : Time) (l : List Nat) (s : State) : State :=
  s.setDrive s.currentDrive { s.drive s.currentDrive with med := s.medium.write b e l }

/-! The FIFO (20_memory R80 to R82). -/

/-- `FifoPush(b)`: NONE for FULL (20_memory R81). -/
def fifoPush (b : Byte) (s : State) : Option State :=
  if s.fifo.length < s.par.fifoSize then some (s.setFifo (s.fifo ++ [b])) else none

/-- `FifoPop()`: NONE for EMPTY (20_memory R82). -/
def fifoPop (s : State) : Option (Byte × State) :=
  match s.fifo with
  | [] => none
  | b :: q => some (b, s.setFifo q)

/-! The PLL (40_pll). -/

/-- `clamp(v, lo, hi)` (00_scope R11). -/
def clamp (v lo hi : Int) : Int := if v < lo then lo else if hi < v then hi else v

/-- PLL_SET_CLOCK's assignments (40_pll R150). -/
def Pll.setClock (par : Params) (period : Nat) (p : Pll) : Pll :=
  let minPeriod := period * par.pllMinNum / par.pllMinDen
  { p with
    nominal := period
    period := period
    adjBase := period * par.pllFreqNum / par.pllFreqDen
    minPeriod := minPeriod
    maxPeriod := period * par.pllMaxNum / par.pllMaxDen
    maxAdj := par.pllMaxPhaseAdj.getD (minPeriod - 1) }

/-- PLL_RESET's assignments (40_pll R151). -/
def Pll.restart (t : Time) (p : Pll) : Pll :=
  { p with ctime := t, phaseAdjust := 0, freqHist := 0, wbuf := [], writeStart := .never }

/-- `ctime + period + phase_adjust`, the end of the cell to read (40_pll R152). -/
def Pll.cellEnd (p : Pll) : Time := p.ctime.add (p.period + p.phaseAdjust)

/-- The phase center of the cell that ends at `next` (40_pll R153). -/
def Pll.center (p : Pll) (next : Nat) : Int := next - (p.period / 2 : Nat)

/-- The run length and sign of the phase errors after an error `delta` (40_pll R152, R156). -/
def nextFreqHist (histMin : Nat) (hist delta : Int) : Int :=
  if delta < 0 then (if hist < 0 then max (hist - 1) (-histMin) else -1)
  else if 0 < delta then (if 0 < hist then min (hist + 1) histMin else 1)
  else 0

/-- The PLL after a cell that ends at `next` with the transition `edge` in it (40_pll R152). -/
def Pll.lockOn (par : Params) (edge next : Nat) (p : Pll) : Pll :=
  let delta := (edge : Int) - p.center next
  let hist := nextFreqHist par.pllFreqHistMin p.freqHist delta
  { p with
    ctime := .ticks next
    phaseAdjust := clamp ((delta * par.pllPhaseNum).tdiv par.pllPhaseDen) (-p.maxAdj) p.maxAdj
    freqHist := hist
    period :=
      if par.pllFreqHistMin ≤ hist.natAbs then
        (clamp (p.period + (p.adjBase * delta).tdiv p.period) p.minPeriod p.maxPeriod).toNat
      else p.period }

/-- The PLL after a cell without a transition, that ends at `next` (40_pll R152). -/
def Pll.coast (next : Time) (p : Pll) : Pll := { p with ctime := next, phaseAdjust := 0 }

/-- GET_NEXT_BIT given the medium's answer `edge`: NONE for NOBIT (40_pll R152, R153, R154). In a cell that ends at NEVER
a given transition (log 2) has no phase error. -/
def Pll.getNextBit (par : Params) (edge limit : Time) (p : Pll) : Option (Bool × Pll) :=
  let next := p.cellEnd
  if Time.lt limit next then none
  else
    match edge, next with
    | .never, _ => some (false, p.coast next)
    | .ticks _, .never => some (true, p.coast next)
    | .ticks e, .ticks n => if n < e then some (false, p.coast next) else some (true, p.lockOn par e n)

/-- The implicit START_WRITING of WRITE_NEXT_BIT (41_write_encoder R173). -/
def Pll.enterWrite (p : Pll) : Pll :=
  match p.writeStart with
  | .never => { p with writeStart := p.ctime, wbuf := [] }
  | .ticks _ => p

/-- WRITE_NEXT_BIT: `true` for OK, `false` for WOULD_EXCEED (41_write_encoder R173, R177). -/
def Pll.writeNextBit (par : Params) (bit : Bool) (limit : Time) (p : Pll) : Res (Bool × Pll) :=
  let p := p.enterWrite
  let etime := p.ctime.add p.period
  if Time.lt limit etime then .ok (false, p)
  else if bit then
    if par.wbufLen ≤ p.wbuf.length then .error (.fault .writeBufferOverflow)
    else .ok (true, { p with ctime := etime, wbuf := p.wbuf ++ [p.ctime.add (p.period / 2 : Nat)] })
  else .ok (true, { p with ctime := etime })

/-- START_WRITING's assignments (41_write_encoder R174). -/
def Pll.startWriting (tm : Time) (p : Pll) : Pll := { p with writeStart := tm, wbuf := [] }

/-! Where the transition of the cell being read comes from. -/

/-- The phase center of the cell to be read; that of a cell that ends at NEVER is not used (`Pll.getNextBit`). -/
def Pll.nextCenter (p : Pll) : Nat :=
  match p.cellEnd with
  | .never => 0
  | .ticks n => (p.center n).toNat

/-- The edge in the cell to be read: from the medium, or a given cell with its transition at the cell's phase center
(log 2). -/
def edgeOf (src : Option Bool) (s : State) : Time :=
  match src with
  | none => mediumNext s s.pll.ctime
  | some true => .ticks s.pll.nextCenter
  | some false => .never

/-! Counters and the ID buffer. -/

/-- A counter modulo 2^COUNTER_BITS (10_state R22). -/
def countUp (par : Params) (n : Nat) : Nat := (n + 1) % 2 ^ par.counterBits

/-- `idbuf[i] <- v` (00_scope R12); there is no entry above 5 (log 11). -/
def IdBuf.put (b : IdBuf) (i : Nat) (v : Byte) : IdBuf :=
  match i with
  | 0 => { b with b0 := v }
  | 1 => { b with b1 := v }
  | 2 => { b with b2 := v }
  | 3 => { b with b3 := v }
  | 4 => { b with b4 := v }
  | 5 => { b with b5 := v }
  | _ => b

/-- `idbuf[i]` (00_scope R12). -/
def IdBuf.get (b : IdBuf) (i : Nat) : Byte :=
  match i with
  | 0 => b.b0
  | 1 => b.b1
  | 2 => b.b2
  | 3 => b.b3
  | 4 => b.b4
  | _ => b.b5

/-- The live context after a cell `b` has been read at time `tm` (43_read_states R200). -/
def Live.shiftIn (par : Params) (b : Bool) (tm : Time) (l : Live) : Live :=
  { l with
    tm := tm
    shiftReg := l.shiftReg <<< 1 ||| (BitVec.ofBool b).zeroExtend 16
    dataReg := if l.bitCounter % 2 = 1 then l.dataReg <<< 1 ||| (BitVec.ofBool b).zeroExtend 8 else l.dataReg
    crc := if l.bitCounter % 2 = 1 then crcStep par.crcPoly l.crc b else l.crc
    bitCounter := countUp par l.bitCounter }

/-- The live context after the cell in bit 15 of `live.wsr` has been written at time `tm` (44_write_states R230). -/
def Live.shiftOut (par : Params) (tm : Time) (l : Live) : Live :=
  { l with
    tm := tm
    crc := if l.bitCounter % 2 = 1 then crcStep par.crcPoly l.crc (l.wsr.getLsbD 15) else l.crc
    wsr := l.wsr <<< 1
    bitCounter := countUp par l.bitCounter }

/-- READ_ONE_BIT: NONE for SUSPEND, with nothing changed (43_read_states R200). -/
def readCell (src : Option Bool) (limit : Time) (s : State) : Option State :=
  match s.pll.getNextBit s.par (edgeOf src s) limit with
  | none => none
  | some (b, p) => some { s with pll := p, live := s.live.shiftIn s.par b p.ctime }

/-- WRITE_ONE_BIT: `true` for CONTINUE, `false` for SUSPEND with `live.*` unchanged (44_write_states R230). -/
def writeCell (limit : Time) (s : State) : Res (Bool × State) :=
  (s.pll.writeNextBit s.par (s.live.wsr.getLsbD 15) limit).map fun x =>
    if x.1 then (true, { s with pll := x.2, live := s.live.shiftOut s.par x.2.ctime })
    else (false, s.setPll x.2)

/-- `live.wsr` and `live.data_reg` of a byte to write: ENCODE_MFM, ENCODE_FM (41_write_encoder R170, R171). -/
def loadByte (mode : Mode) (v : Byte) (s : State) : State :=
  let w := match mode with
    | .mfm => mfmWord (s.live.dataReg.getLsbD 0) v
    | .fm => fmWord v
  { s with live := { s.live with wsr := w, dataReg := v } }

/-- LOAD_RAW (41_write_encoder R172). -/
def loadWord (w : Word) (s : State) : State :=
  { s with live := { s.live with wsr := w, dataReg := dataByte w } }

/-! Commit, checkpoint, rollback, the deferred transition (45_live_control). -/

/-- The transitions of a write buffer as the medium takes them; one at NEVER is at no tick. -/
def tickTimes : List Time → List Nat
  | [] => []
  | .never :: rest => tickTimes rest
  | .ticks n :: rest => n :: tickTimes rest

/-- COMMIT(tm) (41_write_encoder R175). A transition before `write_start_time` is put where it lies (log 47). -/
def commitTo (tm : Time) (s : State) : Res State :=
  match s.pll.writeStart with
  | .never => .ok s
  | .ticks b =>
    if tm = .ticks b then .ok s
    else if Time.lt (.ticks b) tm && s.pll.wbuf.all (fun x => Time.lt x tm) then
      .ok ((mediumWrite b tm (tickTimes s.pll.wbuf) s).setPll (s.pll.startWriting tm))
    else refuse .commitOutOfOrder

/-- STOP_WRITING(tm) (41_write_encoder R176). -/
def stopWritingAt (tm : Time) (s : State) : Res State :=
  (commitTo tm s).map fun s => s.setPll { s.pll with writeStart := .never }

/-- CHECKPOINT (45_live_control R264). -/
def takeCheckpoint (s : State) : Res State :=
  match s.live.tm with
  | .never =>
    (if s.live.drive.isSome then commitTo .never s else .ok s).map fun s => { s with snap := ⟨s.live, s.pll⟩ }
  | .ticks t =>
    if t ≤ s.now then
      (if s.live.drive.isSome then commitTo (.ticks t) s else .ok s).map fun s => { s with snap := ⟨s.live, s.pll⟩ }
    else refuse .checkpointAhead

/-- ROLLBACK (45_live_control R265). -/
def rollBack (s : State) : State := { s with live := s.snap.live, pll := s.snap.pll }

/-- A wake-up is requested of the scheduler (45_live_control R263, R266); one at NEVER never comes, and a second one for
the same tick is the same wake-up (R260, log 62). -/
def requestWake (t : Time) (s : State) : State :=
  match t with
  | .never => s
  | .ticks n => { s with wakeups := Memory.insert s.wakeups n }

/-- The transition to IDLE, the block's "trap entry": write mode is left with a final commit, the drive's live mark
drops, `live.tm` becomes NEVER; every other live register keeps its value (45_live_control R267, 60_exceptions R363). -/
def enterIdle (s : State) : Res State :=
  (stopWritingAt s.live.tm s).map fun s =>
    { s with live := { s.live with state := .idle, drive := none, tm := .never } }

/-- LIVE_SYNC where `live.tm` ≤ `now`: commit, make the due transition, checkpoint (45_live_control R267, second
branch). -/
def syncConfirmed (s : State) : Res State := do
  let s ← commitTo s.live.tm s
  let s := { s with live := { s.live with state := s.live.nextState.getD s.live.state } }
  let s ← if s.live.state = .idle then enterIdle s else .ok s
  takeCheckpoint { s with live := { s.live with nextState := none } }

/-- LIVE_DELAY(state) (45_live_control R266). The LIVE_SYNC it calls finds `live.tm` = `now`. -/
def delayTo (st : LiveState) (s : State) : Res State :=
  let s' := { s with live := { s.live with nextState := some st } }
  match s.live.tm with
  | .never => .ok s'
  | .ticks t =>
    if t < s.now then refuse .delayInThePast
    else if t = s.now then syncConfirmed s'
    else .ok (requestWake (.ticks t) s')

/-- A condition that ends the run: the flag is raised and the transition to IDLE deferred (60_exceptions R352, R353,
R354, R363). -/
def endWith (f : BitVec 3) (s : State) : Res (State × OpOutcome) :=
  (delayTo .idle (raise f s)).map fun s => (s, .delayed)

/-- LIVE_DELAY as the last step of a state rule. -/
def thenDelay (st : LiveState) (s : State) : Res (State × OpOutcome) :=
  (delayTo st s).map fun s => (s, .delayed)

end Sys2Proof.Machine
end

