-- ==== Sys2Proof/Machine/PllOps.lean ====
section
/-! DEFINITION. Meanings of the PLL, write encoder and CRC operations and of the two cell steps (40_pll, 41_write_encoder,
42_crc, 43_read_states R200, 44_write_states R230). -/

namespace Sys2Proof.Machine

/-- PLL_SET_CLOCK's requirement and assignments (40_pll R150): a period below 2 is refused. -/
def setClock (period : Nat) (s : State) : Res State :=
  if period < 2 then refuse .clockPeriodTooShort else .ok (s.setPll (s.pll.setClock s.par period))

/-- PLL_SET_CLOCK (40_pll R150). -/
def execPllSetClock (period : Nat) (s : State) : Host.Outcome State Fault Refusal :=
  finish ((setClock period s).map fun s => s.setOutcome .none)

/-- PLL_RESET (40_pll R151). -/
def execPllReset (t : Time) (s : State) : Host.Outcome State Fault Refusal :=
  .next ((s.setPll (s.pll.restart t)).setOutcome .none)

/-- GET_NEXT_BIT (40_pll R152 to R161). -/
def execGetNextBit (limit : Time) (s : State) : Host.Outcome State Fault Refusal :=
  match s.pll.getNextBit s.par (mediumNext s s.pll.ctime) limit with
  | none => .next (s.setOutcome .noBit)
  | some (b, p) => .next ((s.setPll p).setOutcome (if b then .bit1 else .bit0))

/-- WRITE_NEXT_BIT (41_write_encoder R173, R177). -/
def execWriteNextBit (bit : Bool) (limit : Time) (s : State) : Host.Outcome State Fault Refusal :=
  finish ((s.pll.writeNextBit s.par bit limit).map fun x =>
    (s.setPll x.2).setOutcome (if x.1 then .ok else .wouldExceed))

/-- START_WRITING (41_write_encoder R174). -/
def execStartWriting (tm : Time) (s : State) : Host.Outcome State Fault Refusal :=
  .next ((s.setPll (s.pll.startWriting tm)).setOutcome .none)

/-- COMMIT (41_write_encoder R175). -/
def execCommit (tm : Time) (s : State) : Host.Outcome State Fault Refusal :=
  finish ((commitTo tm s).map fun s => s.setOutcome .none)

/-- STOP_WRITING (41_write_encoder R176). -/
def execStopWriting (tm : Time) (s : State) : Host.Outcome State Fault Refusal :=
  finish ((stopWritingAt tm s).map fun s => s.setOutcome .none)

/-- ENCODE_MFM (41_write_encoder R170). -/
def execEncodeMfm (v : Byte) (s : State) : Host.Outcome State Fault Refusal :=
  .next ((loadByte .mfm v s).setOutcome .none)

/-- ENCODE_FM (41_write_encoder R171). -/
def execEncodeFm (v : Byte) (s : State) : Host.Outcome State Fault Refusal :=
  .next ((loadByte .fm v s).setOutcome .none)

/-- LOAD_RAW (41_write_encoder R172). -/
def execLoadRaw (w : Word) (s : State) : Host.Outcome State Fault Refusal :=
  .next ((loadWord w s).setOutcome .none)

/-- `live.crc <- c`. -/
def setCrc (c : Word) (s : State) : State := { s with live := { s.live with crc := c } }

/-- CRC_SEED (42_crc R192). -/
def execCrcSeed (s : State) : Host.Outcome State Fault Refusal :=
  .next ((setCrc s.par.crcInit s).setOutcome .none)

/-- CRC_BIT (42_crc R190). -/
def execCrcBit (b : Bool) (s : State) : Host.Outcome State Fault Refusal :=
  .next ((setCrc (crcStep s.par.crcPoly s.live.crc b) s).setOutcome .none)

/-- CRC_BYTE (42_crc R191). -/
def execCrcByte (v : Byte) (s : State) : Host.Outcome State Fault Refusal :=
  .next ((setCrc (crcOfByte s.par.crcPoly s.live.crc v) s).setOutcome .none)

/-- READ_ONE_BIT (43_read_states R200). -/
def execReadOneBit (limit : Time) (s : State) : Host.Outcome State Fault Refusal :=
  match readCell none limit s with
  | none => .next (s.setOutcome .suspend)
  | some s' => .next (s'.setOutcome .cont1)

/-- WRITE_ONE_BIT (44_write_states R230). -/
def execWriteOneBit (limit : Time) (s : State) : Host.Outcome State Fault Refusal :=
  finish ((writeCell limit s).map fun x => x.2.setOutcome (if x.1 then .cont1 else .suspend))

end Sys2Proof.Machine
end

