-- ==== Sys2Proof/Machine/ReadStates.lean ====
section
/-! DEFINITION. The read-path states (43_read_states R201 to R208): the rule of each state, and the meaning of each state
row, one execution of its rule while the sequencer is in that state (log 1). `src` says where the cell comes from
(`edgeOf`). -/

namespace Sys2Proof.Machine

/-- The effect of a recognised mark: the CRC is seeded, the byte alignment is established, the sequencer moves on
(43_read_states R202, R205; 20_memory R87). -/
def alignOn (st : LiveState) (s : State) : State :=
  { s with live := { s.live with
      crc := crcSeedWord s.par s.live.shiftReg
      bitCounter := 0
      state := st } }

/-- `live.state <- S`. -/
def goTo (st : LiveState) (s : State) : State := { s with live := { s.live with state := st } }

/-- SEARCH_ADDRESS_MARK_HEADER (43_read_states R202). -/
def ruleSearchHeader (src : Option Bool) (limit : Time) (s : State) : Res (State × OpOutcome) :=
  match readCell src limit s with
  | none => .ok (s, .suspended)
  | some s =>
    if s.cfg.mode = .mfm ∧ s.live.shiftReg = s.par.syncMfm then .ok (alignOn .readHeaderBlockHeader s, .cont)
    else if s.cfg.mode = .fm ∧ s.live.shiftReg = s.par.syncFmId then .ok (alignOn .readIdBlock s, .cont)
    else .ok (s, .cont)

/-- READ_HEADER_BLOCK_HEADER (43_read_states R203): refused in FM, where no rule enters it. On going back to the search
`live.bit_counter`, `live.crc` and `live.shift_reg` are left as they are, in R203's own words and in its vector V-RD-4
(95_test_vectors; log 44 on D19). -/
def ruleHeaderHeader (src : Option Bool) (limit : Time) (s : State) : Res (State × OpOutcome) :=
  if s.cfg.mode = .fm then refuse .headerStateInFm
  else
    match readCell src limit s with
    | none => .ok (s, .suspended)
    | some s =>
      if s.live.bitCounter % 16 ≠ 0 then .ok (s, .cont)
      else if s.live.bitCounter / 16 < s.par.mfmSyncCount then
        .ok (if s.live.shiftReg ≠ s.par.syncMfm then goTo .searchAddressMarkHeader s else s, .cont)
      else if s.live.dataReg ≠ s.par.amId then .ok (goTo .searchAddressMarkHeader s, .cont)
      else .ok ({ s with live := { s.live with bitCounter := 0, state := .readIdBlock } }, .cont)

/-- READ_ID_BLOCK (43_read_states R204). -/
def ruleReadId (src : Option Bool) (limit : Time) (s : State) : Res (State × OpOutcome) :=
  match readCell src limit s with
  | none => .ok (s, .suspended)
  | some s =>
    if s.live.bitCounter % 16 ≠ 0 then .ok (s, .cont)
    else
      let slot := s.live.bitCounter / 16 - 1
      let s := { s with live := { s.live with idbuf := s.live.idbuf.put slot s.live.dataReg } }
      if slot = 5 then thenDelay .idle s else .ok (s, .cont)

/-- SEARCH_ADDRESS_MARK_DATA (43_read_states R205): the window-exceeded test comes before the comparison
(60_exceptions R360). -/
def ruleSearchData (src : Option Bool) (limit : Time) (s : State) : Res (State × OpOutcome) :=
  match readCell src limit s with
  | none => .ok (s, .suspended)
  | some s =>
    let mode := s.cfg.mode
    if s.par.damWindowOpen.get mode + s.par.damWindowLen.get mode < s.live.bitCounter then
      endWith flagDataMarkMissing s
    else if s.live.bitCounter < s.par.damWindowOpen.get mode then .ok (s, .cont)
    else if mode = .mfm ∧ s.live.shiftReg = s.par.syncMfm then .ok (alignOn .readDataBlockHeader s, .cont)
    else if mode = .fm ∧ s.live.shiftReg = s.par.fmDam then .ok (alignOn .readSectorData s, .cont)
    else if mode = .fm ∧ s.live.shiftReg = s.par.fmDdam then
      .ok (alignOn .readSectorData (raise flagDamDeleted s), .cont)
    else .ok (s, .cont)

/-- READ_DATA_BLOCK_HEADER (43_read_states R206): refused in FM, where no rule enters it. -/
def ruleDataHeader (src : Option Bool) (limit : Time) (s : State) : Res (State × OpOutcome) :=
  if s.cfg.mode = .fm then refuse .headerStateInFm
  else
    match readCell src limit s with
    | none => .ok (s, .suspended)
    | some s =>
      if s.live.bitCounter % 16 ≠ 0 then .ok (s, .cont)
      else if s.live.bitCounter / 16 < s.par.mfmSyncCount then
        if s.live.shiftReg ≠ s.par.syncMfm then endWith flagDataMarkMissing s else .ok (s, .cont)
      else
        let toData (s : State) : State := { s with live := { s.live with bitCounter := 0, state := .readSectorData } }
        if s.live.dataReg = s.par.amData then .ok (toData s, .cont)
        else if s.live.dataReg = s.par.amDdata then .ok (toData (raise flagDamDeleted s), .cont)
        else endWith flagDataMarkMissing s

/-- READ_SECTOR_DATA (43_read_states R207). -/
def ruleSectorData (src : Option Bool) (limit : Time) (s : State) : Res (State × OpOutcome) :=
  match readCell src limit s with
  | none => .ok (s, .suspended)
  | some s =>
    if s.live.bitCounter % 16 ≠ 0 then .ok (s, .cont)
    else
      let slot := s.live.bitCounter / 16 - 1
      if slot < s.cfg.sectorSize then thenDelay .readSectorDataByte s
      else if slot = s.cfg.sectorSize + 1 then thenDelay .idle s
      else .ok (s, .cont)

/-- A rule that runs at a confirmed time only: `live.tm` = `now`, else refused (45_live_control R262). -/
def confirmed {α : Type} (s : State) (r : Res α) : Res α :=
  if s.live.tm = .ticks s.now then r else refuse .notConfirmed

/-- READ_SECTOR_DATA_BYTE (43_read_states R208). -/
def ruleSectorDataByte (s : State) : Res (State × OpOutcome) :=
  confirmed s <|
    match (if s.cfg.tcDone then some s else fifoPush s.live.dataReg s) with
    | none => endWith flagOverrun s
    | some s => (takeCheckpoint (goTo .readSectorData s)).map fun s => (s, .cont)

/-- A state row: its rule, when the sequencer stands in that state and no deferred transition is pending; else, as LIVE_RUN
does, nothing is executed and NOT_RUNNING is returned (45_live_control R263, 60_exceptions R364, log 1). -/
def inState (st : LiveState) (rule : State → Res (State × OpOutcome)) (s : State) : Res (State × OpOutcome) :=
  if s.live.state = st ∧ s.live.nextState = none then rule s else .ok (s, .notRunning)

/-- IDLE (43_read_states R201): LIVE_RUN executes nothing and returns NOT_RUNNING. -/
def execIdle (_limit : Time) (s : State) : Host.Outcome State Fault Refusal := .next (s.setOutcome .notRunning)

/-- SEARCH_ADDRESS_MARK_HEADER (43_read_states R202). -/
def execSearchAddressMarkHeader (limit : Time) (s : State) : Host.Outcome State Fault Refusal :=
  finish (withOutcome (inState .searchAddressMarkHeader (ruleSearchHeader none limit) s))

/-- READ_HEADER_BLOCK_HEADER (43_read_states R203). -/
def execReadHeaderBlockHeader (limit : Time) (s : State) : Host.Outcome State Fault Refusal :=
  finish (withOutcome (inState .readHeaderBlockHeader (ruleHeaderHeader none limit) s))

/-- READ_ID_BLOCK (43_read_states R204). -/
def execReadIdBlock (limit : Time) (s : State) : Host.Outcome State Fault Refusal :=
  finish (withOutcome (inState .readIdBlock (ruleReadId none limit) s))

/-- SEARCH_ADDRESS_MARK_DATA (43_read_states R205). -/
def execSearchAddressMarkData (limit : Time) (s : State) : Host.Outcome State Fault Refusal :=
  finish (withOutcome (inState .searchAddressMarkData (ruleSearchData none limit) s))

/-- READ_DATA_BLOCK_HEADER (43_read_states R206). -/
def execReadDataBlockHeader (limit : Time) (s : State) : Host.Outcome State Fault Refusal :=
  finish (withOutcome (inState .readDataBlockHeader (ruleDataHeader none limit) s))

/-- READ_SECTOR_DATA (43_read_states R207). -/
def execReadSectorData (limit : Time) (s : State) : Host.Outcome State Fault Refusal :=
  finish (withOutcome (inState .readSectorData (ruleSectorData none limit) s))

/-- READ_SECTOR_DATA_BYTE (43_read_states R208). -/
def execReadSectorDataByte (_limit : Time) (s : State) : Host.Outcome State Fault Refusal :=
  finish (withOutcome (inState .readSectorDataByte ruleSectorDataByte s))

end Sys2Proof.Machine
end

