-- ==== Sys2Proof/Machine/WriteStates.lean ====
section
/-! DEFINITION. The write-path states (44_write_states R230 to R243): LoadItem, the load states, the emit states, and the
meaning of each state row, one execution of its rule while the sequencer is in that state (log 1). -/

namespace Sys2Proof.Machine

/-- LoadItem(item) (44_write_states R231). END is not loaded. -/
def loadItem (i : Item) (s : State) : State :=
  match i with
  | .fill v => loadByte s.cfg.mode v s
  | .raw w => loadWord w s
  | .rawSeed w => loadWord w { s with live := { s.live with crc := s.par.crcInit } }
  | .data =>
    if s.cfg.tcDone then loadByte s.cfg.mode 0 s
    else
      match fifoPop s with
      | none => loadByte s.cfg.mode 0 (raise flagOverrun s)
      | some (b, s) => loadByte s.cfg.mode b s
  | .crc => loadByte s.cfg.mode (crcHigh s.live.crc) s
  | .stop => s

/-- The common end of a load state: the word is loaded, its cells are counted from 0, the emit state follows, a
checkpoint is taken (44_write_states R234, R237, R240, R242). -/
def loadThen (i : Item) (emit : LiveState) (s : State) : Res (State × OpOutcome) :=
  let s := loadItem i s
  let s := { s with live := { s.live with bitCounter := 0, state := emit } }
  (takeCheckpoint s).map fun s => (s, .cont)

/-- START_WRITING(live.tm) before the first item of a write (44_write_states R234, R237). -/
def startIfFirst (s : State) : State :=
  if s.live.byteCounter = 0 then s.setPll (s.pll.startWriting s.live.tm) else s

/-- The common body of the emit states (44_write_states R235, R238, R241, R243): one cell; after sixteen the byte is
counted, `next` says which deferred transition follows and whether the byte counter restarts at 0. -/
def emitCell (limit : Time) (next : State → Bool × LiveState) (s : State) : Res (State × OpOutcome) := do
  let (go, s) ← writeCell limit s
  if !go then .ok (s, .suspended)
  else if s.live.bitCounter < 16 then .ok (s, .cont)
  else
    let s := { s with live := { s.live with byteCounter := countUp s.par s.live.byteCounter } }
    let (restart, st) := next s
    thenDelay st (if restart then { s with live := { s.live with byteCounter := 0 } } else s)

/-- WRITE_SECTOR_SKIP_GAP2 (44_write_states R232). -/
def ruleSkipGap2 (src : Option Bool) (limit : Time) (s : State) : Res (State × OpOutcome) :=
  match readCell src limit s with
  | none => .ok (s, .suspended)
  | some s =>
    if s.live.bitCounter < s.par.gap2Len.get s.cfg.mode * 16 then .ok (s, .cont)
    else thenDelay .writeSectorData { s with live := { s.live with bitCounter := 0, byteCounter := 0 } }

/-- WRITE_SECTOR_DATA (44_write_states R234). -/
def ruleWriteSector (s : State) : Res (State × OpOutcome) :=
  confirmed s <|
    match itemAt (sectorRuns s.par s.cfg) s.live.byteCounter with
    | .stop => (stopWritingAt s.live.tm s).bind (thenDelay .idle)
    | i => loadThen i .writeSectorDataByte (startIfFirst s)

/-- WRITE_SECTOR_DATA_BYTE (44_write_states R235). -/
def ruleWriteSectorByte (limit : Time) (s : State) : Res (State × OpOutcome) :=
  emitCell limit (fun _ => (false, .writeSectorData)) s

/-- WRITE_TRACK_PRE_SECTORS (44_write_states R237). -/
def rulePreSectors (s : State) : Res (State × OpOutcome) :=
  confirmed s <|
    loadThen (itemAt (preRuns s.par s.cfg.mode) s.live.byteCounter) .writeTrackPreSectorsByte (startIfFirst s)

/-- WRITE_TRACK_PRE_SECTORS_BYTE (44_write_states R238). -/
def rulePreSectorsByte (limit : Time) (s : State) : Res (State × OpOutcome) :=
  emitCell limit (fun s =>
    if s.live.byteCounter = preLen s.par s.cfg.mode then (true, .writeTrackSector) else (false, .writeTrackPreSectors)) s

/-- WRITE_TRACK_SECTOR (44_write_states R240). -/
def ruleTrackSector (s : State) : Res (State × OpOutcome) :=
  confirmed s <|
    loadThen (itemAt (formatRuns s.par s.cfg) (s.live.byteCounter % itemLen s.par s.cfg)) .writeTrackSectorByte s

/-- WRITE_TRACK_SECTOR_BYTE (44_write_states R241). -/
def ruleTrackSectorByte (limit : Time) (s : State) : Res (State × OpOutcome) :=
  emitCell limit (fun s =>
    if s.live.byteCounter = itemLen s.par s.cfg * s.cfg.fmtSectors.toNat then (true, .writeTrackPostSectors)
    else (false, .writeTrackSector)) s

/-- WRITE_TRACK_POST_SECTORS (44_write_states R242). -/
def rulePostSectors (s : State) : Res (State × OpOutcome) :=
  confirmed s <| loadThen (.fill (s.par.gapFill.get s.cfg.mode)) .writeTrackPostSectorsByte s

/-- WRITE_TRACK_POST_SECTORS_BYTE (44_write_states R243). -/
def rulePostSectorsByte (limit : Time) (s : State) : Res (State × OpOutcome) :=
  emitCell limit (fun _ => (false, .writeTrackPostSectors)) s

/-- WRITE_SECTOR_SKIP_GAP2 (44_write_states R232). -/
def execWriteSectorSkipGap2 (limit : Time) (s : State) : Host.Outcome State Fault Refusal :=
  finish (withOutcome (inState .writeSectorSkipGap2 (ruleSkipGap2 none limit) s))

/-- WRITE_SECTOR_DATA (44_write_states R234). -/
def execWriteSectorData (_limit : Time) (s : State) : Host.Outcome State Fault Refusal :=
  finish (withOutcome (inState .writeSectorData ruleWriteSector s))

/-- WRITE_SECTOR_DATA_BYTE (44_write_states R235). -/
def execWriteSectorDataByte (limit : Time) (s : State) : Host.Outcome State Fault Refusal :=
  finish (withOutcome (inState .writeSectorDataByte (ruleWriteSectorByte limit) s))

/-- WRITE_TRACK_PRE_SECTORS (44_write_states R237). -/
def execWriteTrackPreSectors (_limit : Time) (s : State) : Host.Outcome State Fault Refusal :=
  finish (withOutcome (inState .writeTrackPreSectors rulePreSectors s))

/-- WRITE_TRACK_PRE_SECTORS_BYTE (44_write_states R238). -/
def execWriteTrackPreSectorsByte (limit : Time) (s : State) : Host.Outcome State Fault Refusal :=
  finish (withOutcome (inState .writeTrackPreSectorsByte (rulePreSectorsByte limit) s))

/-- WRITE_TRACK_SECTOR (44_write_states R240). -/
def execWriteTrackSector (_limit : Time) (s : State) : Host.Outcome State Fault Refusal :=
  finish (withOutcome (inState .writeTrackSector ruleTrackSector s))

/-- WRITE_TRACK_SECTOR_BYTE (44_write_states R241). -/
def execWriteTrackSectorByte (limit : Time) (s : State) : Host.Outcome State Fault Refusal :=
  finish (withOutcome (inState .writeTrackSectorByte (ruleTrackSectorByte limit) s))

/-- WRITE_TRACK_POST_SECTORS (44_write_states R242). -/
def execWriteTrackPostSectors (_limit : Time) (s : State) : Host.Outcome State Fault Refusal :=
  finish (withOutcome (inState .writeTrackPostSectors rulePostSectors s))

/-- WRITE_TRACK_POST_SECTORS_BYTE (44_write_states R243). -/
def execWriteTrackPostSectorsByte (limit : Time) (s : State) : Host.Outcome State Fault Refusal :=
  finish (withOutcome (inState .writeTrackPostSectorsByte (rulePostSectorsByte limit) s))

end Sys2Proof.Machine
end

