-- ==== Sys2Proof/Machine/Control.lean ====
section
/-! DEFINITION. Live control (45_live_control): the rule of the current state, LIVE_RUN's loop, LIVE_START, LIVE_SYNC,
LIVE_ABORT, CHECKPOINT, ROLLBACK, LIVE_DELAY. -/

namespace Sys2Proof.Machine

/-- The rule of a state (43_read_states, 44_write_states). In IDLE there is none; the loop ends there
(45_live_control R263). READ_SECTOR_DATA_BYTE and the load states run at a confirmed time and their pseudocode tests no
limit, so the model gives them none (DESIGN CHOICE, log 63). -/
def stateRule (st : LiveState) (src : Option Bool) (limit : Time) (s : State) : Res (State × OpOutcome) :=
  match st with
  | .idle => .ok (s, .idle)
  | .searchAddressMarkHeader => ruleSearchHeader src limit s
  | .readHeaderBlockHeader => ruleHeaderHeader src limit s
  | .readIdBlock => ruleReadId src limit s
  | .searchAddressMarkData => ruleSearchData src limit s
  | .readDataBlockHeader => ruleDataHeader src limit s
  | .readSectorData => ruleSectorData src limit s
  | .readSectorDataByte => ruleSectorDataByte s
  | .writeSectorSkipGap2 => ruleSkipGap2 src limit s
  | .writeSectorData => ruleWriteSector s
  | .writeSectorDataByte => ruleWriteSectorByte limit s
  | .writeTrackPreSectors => rulePreSectors s
  | .writeTrackPreSectorsByte => rulePreSectorsByte limit s
  | .writeTrackSector => ruleTrackSector s
  | .writeTrackSectorByte => ruleTrackSectorByte limit s
  | .writeTrackPostSectors => rulePostSectors s
  | .writeTrackPostSectorsByte => rulePostSectorsByte limit s

/-- LIVE_RUN's loop (45_live_control R263): the rule runs again after CONT, and after a DELAYED whose delay was served
at once. `fuel` bounds the turns; `runBudget` gives enough of them, and a run whose cells have no positive length, which
00_scope R8 excludes, is suspended when they are used up (log 12). -/
def runLoop : Nat → Time → State → Res (State × OpOutcome)
  | 0, _, s => .ok (s, .suspended)
  | fuel + 1, limit, s =>
    match stateRule s.live.state none limit s with
    | .error e => .error e
    | .ok (s, o) =>
      if o = .cont ∨ (o = .delayed ∧ s.live.nextState = none) then runLoop fuel limit s else .ok (s, o)

/-- The turns a run to `limit` can take: at most two a tick, and four to begin and end. The first cell may end before it
begins, when PLL_SET_CLOCK has shortened the period and left a pending phase adjustment (40_pll R150), so the ticks are
counted from the lesser of the cursor and that end; from NEVER no cell ends in time (45_live_control R271, log 12). -/
def runBudget (limit : Nat) (s : State) : Nat :=
  match s.pll.ctime, s.pll.cellEnd with
  | .ticks t, .ticks e => 2 * (limit - min t e) + 6
  | _, _ => 6

/-- LIVE_RUN(limit) (45_live_control R263). A finite limit earlier than `live.tm` suspends a state that reads or writes
cells before anything changes; READ_SECTOR_DATA_BYTE or a load state first hands over or loads its byte, as its own rule
says, and the state after it is suspended (DESIGN CHOICE, log 63). -/
def runTo (limit : Time) (s : State) : Res (State × OpOutcome) :=
  if s.live.state = .idle ∨ s.live.nextState ≠ none then .ok (s, .notRunning)
  else
    match limit with
    | .ticks n => runLoop (runBudget n s) limit s
    | .never =>
      match mediumNextIndex s s.now with
      | .ticks n => runLoop (runBudget n s) (.ticks n) s
      | .never =>
        let n := s.now + s.par.safetyNet
        runLoop (runBudget n s) (.ticks n) (requestWake (.ticks n) s)

/-- The states LIVE_START accepts (45_live_control R261). -/
def isEntryState : LiveState → Bool
  | .searchAddressMarkHeader => true
  | .searchAddressMarkData => true
  | .writeSectorSkipGap2 => true
  | .writeTrackPreSectors => true
  | _ => false

/-- The live context LIVE_START makes (45_live_control R261). -/
def freshLive (now drive : Nat) (st : LiveState) : Live :=
  { Live.reset with tm := .ticks now, state := st, drive := some drive }

/-- LIVE_START(drive, state) (45_live_control R261). -/
def start (drive : Nat) (st : LiveState) (s : State) : Res State :=
  if s.live.drive.isSome then refuse .startWhileLive
  else if s.par.ndrives ≤ drive then refuse .driveOutOfRange
  else if !isEntryState st then refuse .notAnEntryState
  else if st = .writeTrackPreSectors ∧ s.cfg.fmtSectors = 0 then refuse .formatWithoutSectors
  else do
    let s ← setClock s.cfg.cellNominal (s.setLive (freshLive s.now drive st))
    takeCheckpoint (s.setPll (s.pll.restart (.ticks s.now)))

/-- LIVE_SYNC (45_live_control R267). -/
def sync (s : State) : Res State :=
  match s.live.tm with
  | .never => .ok s
  | .ticks t =>
    if s.now < t then do
      let (s, _) ← runTo (.ticks s.now) (rollBack s)
      let s ← commitTo s.live.tm s
      takeCheckpoint { s with live := { s.live with nextState := none } }
    else syncConfirmed s

/-- LIVE_ABORT (45_live_control R268). -/
def abort (s : State) : Res State := do
  let s ←
    if Time.lt (.ticks s.now) s.live.tm && s.live.tm ≠ .never then
      (runTo (.ticks s.now) (rollBack s)).map Prod.fst
    else .ok s
  let s ← if s.live.drive.isSome then stopWritingAt s.live.tm s else .ok s
  takeCheckpoint { s with live := { s.live with drive := none, tm := .never, state := .idle, nextState := none } }

/-- LIVE_START (45_live_control R261, R272). -/
def execLiveStart (drive : Nat) (st : LiveState) (s : State) : Host.Outcome State Fault Refusal :=
  finish ((start drive st s).map fun s => s.setOutcome .none)

/-- LIVE_RUN (45_live_control R263). -/
def execLiveRun (limit : Time) (s : State) : Host.Outcome State Fault Refusal :=
  finish (withOutcome (runTo limit s))

/-- CHECKPOINT (45_live_control R264). -/
def execCheckpoint (s : State) : Host.Outcome State Fault Refusal :=
  finish ((takeCheckpoint s).map fun s => s.setOutcome .none)

/-- ROLLBACK (45_live_control R265). -/
def execRollback (s : State) : Host.Outcome State Fault Refusal := .next ((rollBack s).setOutcome .none)

/-- LIVE_SYNC (45_live_control R267). -/
def execLiveSync (s : State) : Host.Outcome State Fault Refusal :=
  finish ((sync s).map fun s => s.setOutcome .none)

/-- LIVE_DELAY (45_live_control R266). -/
def execLiveDelay (st : LiveState) (s : State) : Host.Outcome State Fault Refusal :=
  finish ((delayTo st s).map fun s => s.setOutcome .none)

/-- LIVE_ABORT (45_live_control R268). -/
def execLiveAbort (s : State) : Host.Outcome State Fault Refusal :=
  finish ((abort s).map fun s => s.setOutcome .none)

/-- A reserved operation code (30_encoding R139). -/
def execReservedOp (code : Byte) (_s : State) : Host.Outcome State Fault Refusal :=
  .refused (.reservedOperation code)

/-- A reserved state code (30_encoding R139). -/
def execReservedState (code : Byte) (_s : State) : Host.Outcome State Fault Refusal :=
  .refused (.reservedStateCode code)

end Sys2Proof.Machine
end

