-- ==== Sys2Proof/Machine/CommandEngine.lean ====
section
/-! DEFINITION. The Command Engine (46_command_engine, 60_exceptions R351, R357, R358, R360): the phases, the end of a
command, the evaluation of a finished run, what it does at each event after LIVE_SYNC (45_live_control R260, R269). -/

namespace Sys2Proof.Machine

/-! Requests the Command Engine issues (log 17). -/

/-- LIVE_RUN(NEVER), and the look at what it left (45_live_control R260 steps 1, 4 and 5). -/
def runOn : List Input := [.request (encode (.liveRun .never)), .client .afterRun]

/-- LIVE_START, then LIVE_RUN(NEVER) (45_live_control R260 step 1). -/
def startRun (u : BitVec 2) (st : LiveState) : List Input := .request (encode (.liveStart u.toNat st)) :: runOn

/-- LIVE_ABORT. -/
def abortRun : List Input := [.request (encode .liveAbort)]

/-- LIVE_SYNC, then the action of the event (45_live_control R260 step 4). -/
def syncThen (c : ClientStep) : List Input := [.request (encode .liveSync), .client c]

/-! Phases and the end of a command. -/

/-- The bits of the slot of drive `u` that name the command family and the step (46_command_engine R308). -/
def State.setSlot (s : State) (u : Nat) (m : MainState) (sub : SubState) : State :=
  s.setDrive u { s.drive u with mainState := m, subState := sub }

/-- The command in execution. -/
def State.job (s : State) : Job := s.ctrl.job

/-- The command in execution changes. -/
def State.setJob (s : State) (j : Job) : State := s.setCtrl { s.ctrl with job := j }

/-- The command transfers from the medium to the host. -/
def JobKind.toHost : JobKind → Bool
  | .readData => true
  | .readDeleted => true
  | _ => false

/-- The command transfers from the host to the medium. -/
def JobKind.toMedium : JobKind → Bool
  | .writeData => true
  | .writeDeleted => true
  | .format => true
  | _ => false

/-- Back to COMMAND with nothing gathered and nothing to drain (46_command_engine R290). -/
def toCommand (s : State) : State := s.setCtrl { s.ctrl with phase := .command, cmdBuf := [], resBuf := [] }

/-- INTRQ is asserted (47_host_interface R337, 60_exceptions R362). -/
def raiseIntrq (s : State) : State := s.setCtrl { s.ctrl with intrq := true }

/-- The completion of a command without an execution phase: RESULT with its bytes, INTRQ asserted (46_command_engine R290,
R292, 47_host_interface R337). -/
def toResult (kind : JobKind) (bytes : List Byte) (s : State) : State :=
  s.setCtrl { s.ctrl with
    phase := .result
    cmdBuf := []
    resBuf := bytes.take s.par.resBufLen
    intrq := true
    job := { Job.empty with kind := kind } }

/-- An opcode that is no command: ST0 = 0x80 is its one result byte (46_command_engine R292). -/
def invalidCommand (s : State) : State :=
  toResult .other [st0Invalid] (s.setCtrl { s.ctrl with st0 := st0Invalid })

/-! The head (46_command_engine R294, R308; 47_host_interface R337; log 36). -/

/-- The head-load time field of SPECIFY, HLT. -/
def headLoadField (s : State) : BitVec 7 := s.ctrl.spec2.extractLsb' 1 7

/-- The head-unload time field of SPECIFY, HUT. -/
def headUnloadField (s : State) : BitVec 4 := s.ctrl.spec1.extractLsb' 0 4

/-- The head is to be loaded for the command in execution: at once if it still is, else after the head-load time. -/
def beginHeadLoad (m : MainState) (s : State) : State :=
  let s := (s.setSlot s.job.unit.toNat m .unlisted).setJob { s.job with step := .headLoad }
  if s.ctrl.headLoad then (s.setCtrl { s.ctrl with headAt := none }).issue [.client .headLoaded]
  else s.setCtrl { s.ctrl with headLoad := true, headAt := some (s.now + Config.headLoadTime (headLoadField s)) }

/-- The head is no longer needed: it is unloaded after the head-unload time. -/
def beginHeadUnload (s : State) : State :=
  if s.ctrl.headLoad then
    s.setCtrl { s.ctrl with headAt := some (s.now + Config.headUnloadTime (headUnloadField s)) }
  else s

/-- The head timer is over: HEAD_LOAD_DONE of the command that waits for it, else the head is unloaded. -/
def headTick (s : State) : State :=
  let s := s.setCtrl { s.ctrl with headAt := none }
  if s.job.step = .headLoad then s.issue [.client .headLoaded] else s.setCtrl { s.ctrl with headLoad := false }

/-! The end of a command. -/

/-- COMMAND_DONE of a command with an execution phase: RESULT, INTRQ, the FIFO emptied (46_command_engine R306,
60_exceptions R357, 70_reset_and_hazards R401). -/
def enterResult (s : State) : State :=
  let s := beginHeadUnload (s.setSlot s.job.unit.toNat .idle .commandDone)
  { s.setCtrl { s.ctrl with phase := .result, intrq := true, job := { s.job with step := .none } } with fifo := [] }

/-- The result bytes of a command with an execution phase: ST0 with the head and unit, ST1, ST2, C, H, R, N; ST0 is the
last reported of its drive (46_command_engine R306, R307, 10_state R42). -/
def setResult (st0 st1 st2 : Byte) (chrn : List Byte) (s : State) : State :=
  let u := s.job.unit
  let st0 := st0 ||| headUnit s.job.hd u
  (s.setDrive u.toNat { s.drive u.toNat with st0 := st0 }).setCtrl { s.ctrl with
    st0 := st0
    st1 := st1
    st2 := st2
    resBuf := (st0 :: st1 :: st2 :: chrn).take s.par.resBufLen }

/-- The end of a command at once (46_command_engine R306). -/
def endJob (st0 st1 st2 : Byte) (chrn : List Byte) (s : State) : State := enterResult (setResult st0 st1 st2 chrn s)

/-- The end of a command at the end of its track or count, TRACK_DONE; without TC, RESULT is reached when the host has
taken the bytes that a read left in the FIFO (46_command_engine R308, log 21). -/
def endTransfer (st0 st1 st2 : Byte) (chrn : List Byte) (s : State) : State :=
  let s := setResult st0 st1 st2 chrn s
  let u := s.job.unit.toNat
  let s := (s.setSlot u (s.drive u).mainState .trackDone).setJob { s.job with step := .draining }
  if s.job.kind.toHost && !s.ctrl.tc && !s.fifo.isEmpty then s else s.issue [.client .trackDone]

/-- The target's C, H, R, N, as the result bytes carry them. -/
def Job.chrn (j : Job) : List Byte := [j.c, j.h, j.r, j.n]

/-- C, H, R, N of a command that has not read an ID of its own to report: the target's; of READ ID and FORMAT TRACK, which
have no target, free values (log 25). That a command ended by an error reports the present target is log 59. -/
def resultChrn (s : State) : List Byte × State :=
  if s.job.kind = .readId ∨ s.job.kind = .format then takeFrees 4 s else (s.job.chrn, s)

/-- The end at once of a command that stops before its sector is done. -/
def endEarly (st0 st1 st2 : Byte) (s : State) : State :=
  let (chrn, s) := resultChrn s
  endJob st0 st1 st2 chrn s

/-- The end of a command whose status bits the spec does not give: of ST0, ST1 and ST2 the bits that the layout defines
(46_command_engine R307) are free, and so are C, H, R, N (log 19, log 42). -/
def endUndescribed (s : State) : State :=
  let (bytes, s) := takeFrees 7 s
  endTransfer (bytes.getD 0 0 &&& 0xF8) (bytes.getD 1 0 &&& 0xB7) (bytes.getD 2 0 &&& 0x7F) (bytes.drop 3) s

/-! Results of a run. -/

/-- A header search (46_command_engine R296, R298, R299). -/
def searchHeader (s : State) : State :=
  let u := s.job.unit
  ((s.setSlot u.toNat (s.drive u.toNat).mainState .scanId).setJob { s.job with step := .scanId }).issue
    (startRun u .searchAddressMarkHeader)

/-- The drive's count of search retries (60_exceptions R367). -/
def setSearchRetries (n : Nat) (s : State) : State :=
  let u := s.job.unit.toNat
  s.setDrive u { s.drive u with searchRetries := n }

/-- The search for a sector begins: the index pulses and the retries are counted from 0 (46_command_engine R296). -/
def beginSearch (s : State) : State := searchHeader (setSearchRetries 0 (s.setJob { s.job with idx := 0 }))

/-- The search goes on after an ID that is no match (46_command_engine R296). -/
def retrySearch (s : State) : State :=
  searchHeader (setSearchRetries ((s.drive s.job.unit.toNat).searchRetries + 1) s)

/-- The ID captured is the target's (46_command_engine R296). -/
def idMatches (j : Job) (l : Live) : Bool :=
  l.crc == 0 && l.idbuf.b0 == j.c && l.idbuf.b1 == j.h && l.idbuf.b2 == j.r && l.idbuf.b3 == j.n

/-- The status bits an ID that is no match leaves behind: data error for a bad residue; wrong cylinder, and bad cylinder
when the C read is 0xFF, when only C differs (46_command_engine R296, log 24). -/
def idStatus (l : Live) (j : Job) : Job :=
  if l.crc ≠ 0 then { j with st1 := j.st1 ||| st1DataError }
  else if l.idbuf.b0 ≠ j.c ∧ l.idbuf.b1 = j.h ∧ l.idbuf.b2 = j.r ∧ l.idbuf.b3 = j.n then
    { j with st2 := j.st2 ||| st2WrongCylinder ||| (if l.idbuf.b0 = 0xFF then st2BadCylinder else 0) }
  else j

/-- The sector's data field follows: SECTOR_READ or its write counterpart (46_command_engine R298, R299, R308). -/
def beginField (s : State) : State :=
  let j := s.job
  let u := j.unit
  ((s.setSlot u.toNat (s.drive u.toNat).mainState (if j.kind.toMedium then .sectorWrite else .sectorRead)).setJob
      { j with step := .dataField, st1 := 0, st2 := 0 }).issue
    (startRun u (if j.kind.toMedium then .writeSectorSkipGap2 else .searchAddressMarkData))

/-- A header run has reached IDLE (46_command_engine R296, R300). -/
def evaluateId (s : State) : State :=
  let l := s.live
  let j := s.job
  if j.kind = .readId then
    endJob 0 (if l.crc ≠ 0 then st1DataError else 0) 0 [l.idbuf.b0, l.idbuf.b1, l.idbuf.b2, l.idbuf.b3] s
  else if idMatches j l then beginField s
  else retrySearch (s.setJob (idStatus l j))

/-- The target after a good sector, and whether the track is at its end (46_command_engine R302). -/
def advance (j : Job) : Job × Bool :=
  if j.r ≠ j.eot then ({ j with r := j.r + 1 }, false)
  else if j.mt ∧ j.h = 0 then ({ j with h := 1, r := 1, hd := !j.hd }, false)
  else if j.mt ∧ j.h = 1 then ({ j with h := 0, c := j.c + 1, r := 1, hd := !j.hd }, true)
  else ({ j with c := j.c + 1, r := 1 }, true)

/-- A good sector: the next one, or the end of the command (46_command_engine R298, R299, R302, R303). -/
def sectorDone (s : State) : State :=
  let (j, done) := advance s.job
  let s := s.setJob j
  if s.ctrl.tc then endTransfer 0 0 0 j.chrn s
  else if done then endTransfer st0Abnormal st1EndOfCylinder 0 j.chrn s
  else beginSearch s

/-- The command expects a deleted data mark. -/
def JobKind.expectsDeleted : JobKind → Bool
  | .readDeleted => true
  | _ => false

/-- ST2's control mark: the mark read is not the one the command expects (46_command_engine R298). -/
def controlMark (s : State) : Byte :=
  if hasFlag flagDamDeleted s ≠ s.job.kind.expectsDeleted then st2ControlMark else 0

/-- A data run has reached IDLE; the tests in the order of 60_exceptions R360. F_DAM_DELETED keeps its meaning beside
F_OVERRUN and a bad residue, not beside a missing mark (46_command_engine R298, R299, 60_exceptions R351, R360). C, H,
R, N of an end by an error are the present target's (log 59). -/
def evaluateData (s : State) : State :=
  let j := s.job
  if j.kind.toMedium then
    if hasFlag flagOverrun s then endJob st0Abnormal st1Overrun 0 j.chrn s else sectorDone s
  else if hasFlag flagDataMarkMissing s then endJob st0Abnormal st1MissingMark st2MissingMark j.chrn s
  else if hasFlag flagOverrun s then endJob st0Abnormal st1Overrun (controlMark s) j.chrn s
  else if s.live.crc ≠ 0 then endJob st0Abnormal st1DataError (st2DataError ||| controlMark s) j.chrn s
  else if controlMark s ≠ 0 then endTransfer 0 0 (controlMark s) j.chrn s
  else sectorDone s

/-- The engine has reached IDLE: the run's results are read (45_live_control R260 step 5, 10_state R44). -/
def evaluate (s : State) : State :=
  match s.job.step with
  | .scanId => evaluateId s
  | .dataField => evaluateData s
  | _ => s

/-- The engine is in IDLE: evaluate; else LIVE_RUN(NEVER) (45_live_control R269). -/
def proceed (s : State) : State := if s.live.state = .idle then evaluate s else s.issue runOn

/-- LIVE_ABORT, then what the Command Engine does with the engine in IDLE (45_live_control R268, R269, 10_state R44). -/
def abortThen (c : ClientStep) (s : State) : State := s.issue (abortRun ++ [.client c])

/-! Events, after LIVE_SYNC (45_live_control R269). -/

/-- INDEX: the pulse is counted; a format starts at the first pulse and ends at the next (46_command_engine R296, R300,
R301). The slot keeps HEAD_LOAD_DONE while a format waits and writes (log 53). -/
def afterIndex (s : State) : State :=
  let j := s.job
  match j.step with
  | .formatWait => (s.setJob { j with step := .formatting }).issue (startRun j.unit .writeTrackPreSectors)
  | .formatting => abortThen .formatDone s
  | .scanId =>
    let s := s.setJob { j with idx := j.idx + 1 }
    if s.par.idIndexLimit ≤ j.idx + 1 then
      abortThen (.complete st0Abnormal ((if j.kind = .readId then st1MissingMark else st1NoData) ||| j.st1) j.st2) s
    else proceed s
  | _ => proceed s

/-- A sector data field is in flight: SEARCH_ADDRESS_MARK_DATA to READ_SECTOR_DATA_BYTE or a sector-write state
(60_exceptions R357). -/
def fieldInFlight : LiveState → Bool
  | .searchAddressMarkData => true
  | .readDataBlockHeader => true
  | .readSectorData => true
  | .readSectorDataByte => true
  | .writeSectorSkipGap2 => true
  | .writeSectorData => true
  | .writeSectorDataByte => true
  | _ => false

/-- A state of the format path (44_write_states R237 to R243). -/
def inFormat : LiveState → Bool
  | .writeTrackPreSectors => true
  | .writeTrackPreSectorsByte => true
  | .writeTrackSector => true
  | .writeTrackSectorByte => true
  | .writeTrackPostSectors => true
  | .writeTrackPostSectorsByte => true
  | _ => false

/-- `cfg.tc_done <- 1`, directly after a LIVE_SYNC (70_reset_and_hazards R402). -/
def setTcDone (s : State) : State := { s with cfg := { s.cfg with tcDone := true } }

/-- TC with the engine idle or searching for an ID: LIVE_ABORT; the command completes with what was transferred so far
(60_exceptions R357). -/
def completeAtTc (s : State) : State :=
  let j := s.job
  abortThen (if j.kind = .undescribed then .undescribedDone else .complete 0 j.st1 j.st2) (setTcDone s)

/-- TC (60_exceptions R357). A format ends at the index pulse, not at a count; a result that waits only for the host to
take its bytes keeps the status bits it has. While a command waits without the engine, a run that a LIVE_START alone has
begun is not told apart: it is aborted, or, with a format waiting, not run on (log 32). -/
def afterTc (s : State) : State :=
  match s.job.step with
  | .headLoad => if s.job.kind = .format then s else completeAtTc s
  | .formatWait => s
  | .formatting => proceed s
  | .draining => abortThen .trackDone (setTcDone s)
  | .scanId => completeAtTc s
  | .dataField => proceed (setTcDone s)
  | .none =>
    if inFormat s.live.state then s.issue runOn
    else if fieldInFlight s.live.state then (setTcDone s).issue runOn
    else (setTcDone s).issue abortRun

/-- The command in execution, its transfer not yet over, is for drive `d`. -/
def commandUses (s : State) (d : Nat) : Bool :=
  s.job.step != .none && s.job.step != .draining && s.job.unit.toNat == d

/-- What a drive in use that is not ready ends in: the ST0 of an abnormal termination by a change of the ready line, IC
= 11, with the not-ready bit, of the command if it is the command's drive (60_exceptions R358, 46_command_engine R307).
A drop in an ID search ends the command too: the retry that R296 and R358 leave to the Command Engine is not made;
F_OVERRUN of a write is not reported beside the end (log 33). -/
def notReadyEnd (d : Nat) (s : State) : ClientStep :=
  if commandUses s d then .complete (st0TopTwo ||| st0NotReady) s.job.st1 s.job.st2 else .reportNotReady d

/-- NOT_READY of the live drive `d`, after LIVE_SYNC: LIVE_ABORT, then the end (60_exceptions R358). -/
def afterNotReady (d : Nat) (s : State) : State := abortThen (notReadyEnd d s) s

/-- A status of drive `u` that no result carries: it is pending in the drive's slot, in place of one not yet collected,
with HD 0, and INTRQ is asserted (46_command_engine R293, R307, 47_host_interface R337, log 54). -/
def pendStatus (u : Nat) (st0 : Byte) (s : State) : State :=
  raiseIntrq (s.setDrive u { s.drive u with pending := some (st0 ||| headUnit false (BitVec.ofNat 2 u)) })

/-- The command in execution ends without the engine: its use of the engine is not described (log 19), or it is a format
of no sectors (44_write_states R241, log 42). -/
def startsNothing (s : State) : Bool :=
  s.job.kind == .undescribed || (s.job.kind == .format && s.cfg.fmtSectors == 0)

/-- The head is loaded, HEAD_LOAD_DONE: a command that does not start the engine ends, a format waits for the index, any
other searches for its sector (46_command_engine R296, R301, R308). -/
def headLoaded (s : State) : State :=
  let j := s.job
  let s := s.setSlot j.unit.toNat (s.drive j.unit.toNat).mainState .headLoadDone
  if startsNothing s then s.issue [.client .undescribedDone]
  else if j.kind = .format then s.setJob { j with step := .formatWait }
  else s.issue [.client .beginSearch]


/-- The end of a command that an event ended, with the engine aborted: a normal end passes through TRACK_DONE. -/
def complete (st0 st1 st2 : Byte) (s : State) : State :=
  if st0 = 0 then
    let (chrn, s) := resultChrn s
    endTransfer st0 st1 st2 chrn s
  else endEarly st0 st1 st2 s

/-- A format has been aborted at the index pulse: F_OVERRUN says that ID bytes were missing (46_command_engine R301,
60_exceptions R354). -/
def formatDone (s : State) : State :=
  if hasFlag flagOverrun s then complete st0Abnormal st1Overrun 0 s else complete 0 0 0 s

/-- A step of the Command Engine. -/
def clientStep (c : ClientStep) (s : State) : State :=
  match c with
  | .afterRun => if s.live.state = .idle then evaluate s else s
  | .afterWake => proceed s
  | .afterIndex => afterIndex s
  | .afterTc => afterTc s
  | .afterNotReady d => afterNotReady d s
  | .headLoaded => headLoaded s
  | .beginSearch => beginSearch s
  | .complete st0 st1 st2 => complete st0 st1 st2 s
  | .formatDone => formatDone s
  | .trackDone => enterResult s
  | .reportNotReady d => pendStatus d (st0TopTwo ||| st0NotReady) s
  | .undescribedDone => endUndescribed s

end Sys2Proof.Machine
end

