-- ==== Sys2Proof/Machine/HostCommands.lean ====
section
/-! DEFINITION. Meanings of the host commands (46_command_engine R291 to R306): what a command does when its last byte has
been accepted. Commands that use the engine issue their operations through the inbox (log 17). -/

namespace Sys2Proof.Machine

/-- Reset, bit 2 of the Digital Output Register, active low: 0 holds the controller in reset (47_host_interface R333,
R338). -/
def heldInReset (s : State) : Bool := !s.ctrl.dor.getLsbD 2

/-- A command is accepted in the COMMAND phase; in any other phase it is ignored (46_command_engine R310, log 29). At its
start `cfg.tc_done` and the terminal count flag are cleared (46_command_engine R297, 60_exceptions R357). -/
def accepted (s : State) (f : State → State) : Host.Outcome State Fault Refusal :=
  if s.ctrl.phase = .command ∧ heldInReset s = false then
    .next ((f (writeCfg { s.cfg with tcDone := false } (s.setCtrl { s.ctrl with cmdBuf := [], tc := false }))).setOutcome
      .none)
  else .next s

/-- The drive exists and is ready (46_command_engine R305). A unit of no drive, with fewer than four, counts as not ready
(00_scope R8, log 61). -/
def unitReady (s : State) (u : BitVec 2) : Bool := decide (u.toNat < s.par.ndrives) && (s.drive u.toNat).med.ready

/-- The drive is ready and holds a medium: what a command that starts the engine needs (20_memory R75, 92 D49). A drive
without a medium counts as not ready, whatever its ready line says (log 58). -/
def mediumReady (s : State) (u : BitVec 2) : Bool := unitReady s u && (s.drive u.toNat).med.present

/-- A seek ends: the status is pending in the drive's slot and INTRQ is raised (46_command_engine R293, R309). -/
def seekDone (u : Nat) (st0 : Byte) (s : State) : State :=
  pendStatus u st0 (s.setDrive u { s.drive u with mainState := .idle, subState := .commandDone, stepAt := none })

/-- The drive is seeking or recalibrating. -/
def Drive.seeking (d : Drive) : Bool := d.mainState == .seek || d.mainState == .recalibrate

/-- A command for a drive that still seeks takes the slot and ends the seek, which reaches COMMAND_DONE with an abnormal
seek-end status pending (46_command_engine R306, log 20). -/
def interruptSeek (u : Nat) (s : State) : State :=
  if (s.drive u).seeking then seekDone u (st0Abnormal ||| st0SeekEnd) s else s

/-- A command with an execution phase begins (46_command_engine R290). -/
def beginJob (j : Job) (s : State) : State := s.setCtrl { s.ctrl with phase := .execution, resBuf := [], job := j }

/-- The configuration with the mode of a command and the cell length that goes with it (46_command_engine R297,
00_scope R8). The rate is the one selected when the command is accepted, and no later write of it reaches the command
(70_reset_and_hazards R402, log 56). -/
def modeCfg (m : Mode) (s : State) : Cfg := { s.cfg with mode := m, cellNominal := cellNominalOf s.par s.ctrl.rate m }

/-- The checks before anything is started: not ready or without a medium, then, for a command that writes, write-protected
(46_command_engine R299, R305, 92 D49). -/
def checkDrive (j : Job) (go : State → State) (s : State) : State :=
  let s := beginJob j (interruptSeek j.unit.toNat s)
  if mediumReady s j.unit = false then endEarly (st0Abnormal ||| st0NotReady) 0 0 s
  else if j.kind.toMedium ∧ (s.drive j.unit.toNat).med.wp then endEarly st0Abnormal st1NotWritable 0 s
  else go s

/-- The job of a nine-byte data command. -/
def dataJob (kind : JobKind) (a : DataArgs) : Job :=
  { Job.empty with
    kind := kind
    unit := unitOf a.hu
    hd := headOf a.hu
    mt := flagMt a.flags
    c := a.c
    h := a.h
    r := a.r
    n := a.n
    eot := a.eot }

/-- `cfg` as a nine-byte data command sets it (46_command_engine R297). -/
def dataCfg (deleted : Bool) (a : DataArgs) (s : State) : Cfg :=
  { modeCfg (flagMode a.flags) s with sectorSize := sectorSizeOf a.n, damDeleted := deleted }

/-- A nine-byte data command (46_command_engine R296 to R299); one of kind `undescribed` is READ TRACK or a SCAN, whose
use of the engine the spec does not describe (log 19). -/
def beginData (kind : JobKind) (main : MainState) (deleted : Bool) (a : DataArgs) (s : State) : State :=
  checkDrive (dataJob kind a) (fun s => beginHeadLoad main (writeCfg (dataCfg deleted a s) s)) s

/-- The job of a command with a head/unit byte and no target. -/
def unitJob (kind : JobKind) (hu : Byte) : Job :=
  { Job.empty with kind := kind, unit := unitOf hu, hd := headOf hu }

/-- READ ID (46_command_engine R300). -/
def beginReadId (flags : BitVec 3) (hu : Byte) (s : State) : State :=
  checkDrive (unitJob .readId hu) (fun s => beginHeadLoad .readId (writeCfg (modeCfg (flagMode flags) s) s)) s

/-- FORMAT TRACK (46_command_engine R297, R301). -/
def beginFormat (flags : BitVec 3) (hu n sc gpl d : Byte) (s : State) : State :=
  checkDrive (unitJob .format hu) (fun s =>
    let s := writeCfg { modeCfg (flagMode flags) s with
      sectorSize := sectorSizeOf n
      damDeleted := false
      fmtSectors := sc
      fmtFill := d
      fmtGap3 := gpl } s
    beginHeadLoad .formatTrack s) s

/-! SEEK and RECALIBRATE (46_command_engine R309, log 20). -/

/-- SRT, the step-rate field of SPECIFY's first byte (46_command_engine R294). -/
def stepRate (s : State) : BitVec 4 := s.ctrl.spec1.extractLsb' 4 4

/-- One pulse of the step output, and the wait for the step time. -/
def stepPulse (u : Nat) (out : Bool) (s : State) : State :=
  let d := s.drive u
  s.setDrive u { d with
    steps := d.steps + 1
    dirOut := out
    subState := .seekWaitStepSignalTime
    stepAt := some (s.now + Config.stepInterval (stepRate s)) }

/-- A seek that has not arrived: the present cylinder follows the pulse. -/
def seekPulse (u : Nat) (s : State) : State :=
  let d := s.drive u
  let out := decide (d.pcn < d.target)
  stepPulse u out (s.setDrive u { d with pcn := if out then d.pcn + 1 else d.pcn - 1 })

/-- RECALIBRATE where it stands: at track 0 it is done; beyond the retry bound it is an equipment check; else a pulse. -/
def recalibrateStep (u : Nat) (s : State) : State :=
  let d := s.drive u
  if d.med.track0 then seekDone u st0SeekEnd (s.setDrive u { d with pcn := 0 })
  else if Config.seekRetryBound < d.retries then seekDone u (st0Abnormal ||| st0SeekEnd ||| st0Equipment) s
  else stepPulse u false s

/-- SEEK where it stands: at the target it is done; else a pulse. It never ends in an equipment check, for R309 names no
way to detect that a SEEK has failed (DESIGN CHOICE, log 20). -/
def seekStep (u : Nat) (s : State) : State :=
  let d := s.drive u
  if d.pcn = d.target then seekDone u st0SeekEnd s else seekPulse u s

/-- The step time of drive `u` is over; without a seek there is nothing to do. The ready line is looked at when the seek
begins, not here (log 20). -/
def seekTick (u : Nat) (s : State) : State :=
  let d := s.drive u
  let s := s.setDrive u { d with stepAt := none }
  match d.mainState with
  | .recalibrate => recalibrateStep u (s.setDrive u { s.drive u with retries := d.retries + 1 })
  | .seek => seekStep u s
  | _ => s

/-- SEEK or RECALIBRATE begins; there is no result phase, the controller is back in COMMAND (46_command_engine R290).
SEEK_MOVE gives way to the wait or to COMMAND_DONE in the same step (log 53). -/
def beginSeek (main : MainState) (u : BitVec 2) (target : Byte) (s : State) : State :=
  let s := toCommand (interruptSeek u.toNat s)
  if unitReady s u = false then seekDone u.toNat (st0Abnormal ||| st0NotReady) s
  else
    let s := s.setDrive u.toNat { s.drive u.toNat with
      mainState := main, subState := .seekMove, target := target, retries := 0 }
    if main = .recalibrate then recalibrateStep u.toNat s else seekStep u.toNat s

/-! Commands without an execution phase. -/

/-- The first drive with a pending status, lowest number first (46_command_engine R293, 60_exceptions R362). -/
def firstPending : List Drive → Option Nat
  | [] => none
  | d :: ds => if d.pending.isSome then some 0 else (firstPending ds).map (· + 1)

/-- SENSE INTERRUPT STATUS: its own completion asserts no INTRQ; INTRQ is asserted after it exactly while a status is
left, also where a drained result had dropped it before (46_command_engine R293, log 22). -/
def senseInterrupt (s : State) : State :=
  match firstPending s.drives with
  | some u =>
    let d := s.drive u
    let st0 := d.pending.getD st0TopTwo
    let s := toResult .senseInterrupt [st0, d.pcn] (s.setDrive u { d with pending := none, st0 := st0 })
    s.setCtrl { s.ctrl with st0 := st0, intrq := (firstPending s.drives).isSome }
  | none =>
    let (b, s) := takeFree s
    let s := toResult .senseInterrupt [st0TopTwo, b] s
    s.setCtrl { s.ctrl with st0 := st0TopTwo, intrq := false }

/-- ST3 of a drive (46_command_engine R307); FT is 0 and TS is the side signal (log 48). -/
def st3Of (d : Drive) (hd : Bool) (u : BitVec 2) : Byte :=
  (BitVec.ofBool d.med.wp).zeroExtend 8 <<< 6 ||| (BitVec.ofBool d.med.ready).zeroExtend 8 <<< 5
    ||| (BitVec.ofBool d.med.track0).zeroExtend 8 <<< 4 ||| (BitVec.ofBool d.med.side).zeroExtend 8 <<< 3
    ||| headUnit hd u

/-- SENSE DRIVE STATUS (46_command_engine R291, R307). -/
def senseDrive (hu : Byte) (s : State) : State :=
  let st3 := st3Of (s.drive (unitOf hu).toNat) (headOf hu) (unitOf hu)
  toResult .other [st3] (s.setCtrl { s.ctrl with st3 := st3 })

/-- A command with `n` result bytes whose values the spec does not give (log 25). -/
def freeResult (n : Nat) (s : State) : State :=
  let (bytes, s) := takeFrees n s
  toResult .other bytes s

/-- READ TRACK (46_command_engine R291, log 19). -/
def execReadTrack (a : DataArgs) (s : State) : Host.Outcome State Fault Refusal :=
  accepted s (beginData .undescribed .readTrack false a)

/-- SPECIFY (46_command_engine R294). -/
def execSpecify (_flags : BitVec 3) (b1 b2 : Byte) (s : State) : Host.Outcome State Fault Refusal :=
  accepted s fun s => raiseIntrq (toCommand (s.setCtrl { s.ctrl with spec1 := b1, spec2 := b2 }))

/-- SENSE DRIVE STATUS (46_command_engine R291, R307). -/
def execSenseDriveStatus (_flags : BitVec 3) (hu : Byte) (s : State) : Host.Outcome State Fault Refusal :=
  accepted s (senseDrive hu)

/-- WRITE DATA (46_command_engine R299). -/
def execWriteData (a : DataArgs) (s : State) : Host.Outcome State Fault Refusal :=
  accepted s (beginData .writeData .writeData false a)

/-- READ DATA (46_command_engine R298). -/
def execReadData (a : DataArgs) (s : State) : Host.Outcome State Fault Refusal :=
  accepted s (beginData .readData .readData false a)

/-- RECALIBRATE (46_command_engine R309). -/
def execRecalibrate (_flags : BitVec 3) (hu : Byte) (s : State) : Host.Outcome State Fault Refusal :=
  accepted s (beginSeek .recalibrate (unitOf hu) 0)

/-- SENSE INTERRUPT STATUS (46_command_engine R293). -/
def execSenseInterruptStatus (_flags : BitVec 3) (s : State) : Host.Outcome State Fault Refusal :=
  accepted s senseInterrupt

/-- WRITE DELETED DATA (46_command_engine R291, R299). -/
def execWriteDeletedData (a : DataArgs) (s : State) : Host.Outcome State Fault Refusal :=
  accepted s (beginData .writeDeleted .writeData true a)

/-- READ ID (46_command_engine R300). -/
def execReadId (flags : BitVec 3) (hu : Byte) (s : State) : Host.Outcome State Fault Refusal :=
  accepted s (beginReadId flags hu)

/-- READ DELETED DATA (46_command_engine R291, R298). -/
def execReadDeletedData (a : DataArgs) (s : State) : Host.Outcome State Fault Refusal :=
  accepted s (beginData .readDeleted .readData false a)

/-- FORMAT TRACK (46_command_engine R291, R301). -/
def execFormatTrack (flags : BitVec 3) (hu n sc gpl d : Byte) (s : State) : Host.Outcome State Fault Refusal :=
  accepted s (beginFormat flags hu n sc gpl d)

/-- DUMP REG (46_command_engine R291, log 25). -/
def execDumpReg (_flags : BitVec 3) (s : State) : Host.Outcome State Fault Refusal := accepted s (freeResult 10)

/-- SEEK (46_command_engine R309). -/
def execSeek (_flags : BitVec 3) (hu ncn : Byte) (s : State) : Host.Outcome State Fault Refusal :=
  accepted s (beginSeek .seek (unitOf hu) ncn)

/-- VERSION (46_command_engine R291, log 25). -/
def execVersion (_flags : BitVec 3) (s : State) : Host.Outcome State Fault Refusal := accepted s (freeResult 1)

/-- SCAN EQUAL (46_command_engine R291, log 19). -/
def execScanEqual (a : DataArgs) (s : State) : Host.Outcome State Fault Refusal :=
  accepted s (beginData .undescribed .scanData false a)

/-- CONFIGURE (46_command_engine R295). -/
def execConfigure (_flags : BitVec 3) (b1 b2 b3 : Byte) (s : State) : Host.Outcome State Fault Refusal :=
  accepted s fun s => raiseIntrq (toCommand (s.setCtrl { s.ctrl with conf1 := b1, conf2 := b2, conf3 := b3 }))

/-- LOCK: the flag is the opcode's bit 7 and is returned in bit 4 (46_command_engine R304), the other bits 0 (log 57). -/
def execLock (flags : BitVec 3) (s : State) : Host.Outcome State Fault Refusal :=
  accepted s fun s =>
    let on := flags.getLsbD 2
    toResult .other [(BitVec.ofBool on).zeroExtend 8 <<< 4] (s.setCtrl { s.ctrl with lock := on })

/-- SCAN LOW OR EQUAL (46_command_engine R291, log 19). -/
def execScanLowOrEqual (a : DataArgs) (s : State) : Host.Outcome State Fault Refusal :=
  accepted s (beginData .undescribed .scanData false a)

/-- SCAN HIGH OR EQUAL (46_command_engine R291, log 19). -/
def execScanHighOrEqual (a : DataArgs) (s : State) : Host.Outcome State Fault Refusal :=
  accepted s (beginData .undescribed .scanData false a)

end Sys2Proof.Machine
end

