-- ==== Sys2Proof/Machine/MediumWords.lean ====
section
/-! DEFINITION. Meanings of the raw words, mark words, mark bytes and flags of 30_encoding R111 to R116 and R136: a word
passes under the head of the engine as sixteen cells, each with its transition at the cell's phase center (log 2); a
flag row raises its flag in a running engine (log 3). -/

namespace Sys2Proof.Machine

/-- The states whose rule begins by reading a cell (43_read_states R202 to R207, 44_write_states R232). -/
def readsCells : LiveState → Bool
  | .searchAddressMarkHeader => true
  | .readHeaderBlockHeader => true
  | .readIdBlock => true
  | .searchAddressMarkData => true
  | .readDataBlockHeader => true
  | .readSectorData => true
  | .writeSectorSkipGap2 => true
  | _ => false

/-- The engine takes a cell now: its state reads cells and no deferred transition is pending (45_live_control R263). -/
def takesCell (s : State) : Bool := readsCells s.live.state && s.live.nextState.isNone

/-- One cell passes under the head; an engine that does not read now does not see it. -/
def passCell (b : Bool) (s : State) : Res State :=
  if takesCell s then (stateRule s.live.state (some b) .never s).map Prod.fst else .ok s

/-- The cells pass under the head in order. -/
def passCells : List Bool → State → Res State
  | [], s => .ok s
  | b :: bs, s => (passCell b s).bind (passCells bs)

/-- A raw word passes under the head, first cell in bit 15 (30_encoding R111). -/
def passWord (w : Word) (s : State) : Res State := passCells (cellsOf w) s

/-- The step of a word row. -/
def wordStep (w : Word) (s : State) : Host.Outcome State Fault Refusal :=
  finish ((passWord w s).map fun s => s.setOutcome .none)

/-- The word of a mark byte in the mode in use: in MFM the byte encoded after the data bit before it, in FM the mark
word that carries it (30_encoding R116). -/
def markByteWord (v : Byte) (k : Fin 4) (s : State) : Word :=
  match s.cfg.mode with
  | .mfm => mfmWord (s.live.dataReg.getLsbD 0) v
  | .fm => fmMarkWord s.par k

/-- RAW_WORD (30_encoding R111). -/
def execRawWord (w : Word) (s : State) : Host.Outcome State Fault Refusal := wordStep w s

/-- MFM_BYTE (30_encoding R113). -/
def execMfmByte (prev : Bool) (v : Byte) (s : State) : Host.Outcome State Fault Refusal := wordStep (mfmWord prev v) s

/-- FM_BYTE (30_encoding R114). -/
def execFmByte (v : Byte) (s : State) : Host.Outcome State Fault Refusal := wordStep (fmWord v) s

/-- SYNC_MFM (30_encoding R115). -/
def execSyncMfm (s : State) : Host.Outcome State Fault Refusal := wordStep s.par.syncMfm s

/-- SYNC_FM_ID (30_encoding R115). -/
def execSyncFmId (s : State) : Host.Outcome State Fault Refusal := wordStep s.par.syncFmId s

/-- FM_DAM (30_encoding R115, log 38). -/
def execFmDam (s : State) : Host.Outcome State Fault Refusal := wordStep s.par.fmDam s

/-- FM_DDAM (30_encoding R115, log 38). -/
def execFmDdam (s : State) : Host.Outcome State Fault Refusal := wordStep s.par.fmDdam s

/-- MFM_IAM (30_encoding R115, log 38). -/
def execMfmIam (s : State) : Host.Outcome State Fault Refusal := wordStep s.par.mfmIam s

/-- FM_IAM (30_encoding R115, log 38). -/
def execFmIam (s : State) : Host.Outcome State Fault Refusal := wordStep s.par.fmIam s

/-- AM_ID (30_encoding R116). -/
def execAmId (s : State) : Host.Outcome State Fault Refusal := wordStep (markByteWord s.par.amId 0 s) s

/-- AM_DATA (30_encoding R116). -/
def execAmData (s : State) : Host.Outcome State Fault Refusal := wordStep (markByteWord s.par.amData 1 s) s

/-- AM_DDATA (30_encoding R116). -/
def execAmDdata (s : State) : Host.Outcome State Fault Refusal := wordStep (markByteWord s.par.amDdata 2 s) s

/-- AM_INDEX (30_encoding R116). -/
def execAmIndex (s : State) : Host.Outcome State Fault Refusal := wordStep (markByteWord s.par.amIndex 3 s) s

/-- A flag row: only a running engine raises a flag (60_exceptions R352, R364, log 3). -/
def raiseRow (f : BitVec 3) (s : State) : State :=
  (if s.live.state ≠ .idle ∧ s.live.nextState = none then raise f s else s).setOutcome .none

/-- F_DAM_DELETED (60_exceptions R352, R356). -/
def execFDamDeleted (s : State) : Host.Outcome State Fault Refusal :=
  .next (raiseRow flagDamDeleted s)

/-- F_DATA_MARK_MISSING (60_exceptions R352, R353). -/
def execFDataMarkMissing (s : State) : Host.Outcome State Fault Refusal :=
  .next (raiseRow flagDataMarkMissing s)

/-- F_OVERRUN (60_exceptions R352, R354). -/
def execFOverrun (s : State) : Host.Outcome State Fault Refusal :=
  .next (raiseRow flagOverrun s)

end Sys2Proof.Machine
end

