-- ==== Sys2Proof/Machine/Dispatch.lean ====
section
/-! DEFINITION. The meaning of every instruction: one arm for each row of spec/opcode_table.json. -/

namespace Sys2Proof.Machine

def exec (i : Instr) (s : State) : Host.Outcome State Fault Refusal :=
  match i with
  | .pllSetClock period => Sys2Proof.Machine.execPllSetClock period s
  | .pllReset t => Sys2Proof.Machine.execPllReset t s
  | .getNextBit limit => Sys2Proof.Machine.execGetNextBit limit s
  | .writeNextBit bit limit => Sys2Proof.Machine.execWriteNextBit bit limit s
  | .startWriting tm => Sys2Proof.Machine.execStartWriting tm s
  | .commit tm => Sys2Proof.Machine.execCommit tm s
  | .stopWriting tm => Sys2Proof.Machine.execStopWriting tm s
  | .encodeMfm v => Sys2Proof.Machine.execEncodeMfm v s
  | .encodeFm v => Sys2Proof.Machine.execEncodeFm v s
  | .loadRaw w => Sys2Proof.Machine.execLoadRaw w s
  | .crcSeed => Sys2Proof.Machine.execCrcSeed s
  | .crcBit b => Sys2Proof.Machine.execCrcBit b s
  | .crcByte v => Sys2Proof.Machine.execCrcByte v s
  | .readOneBit limit => Sys2Proof.Machine.execReadOneBit limit s
  | .writeOneBit limit => Sys2Proof.Machine.execWriteOneBit limit s
  | .liveStart drive state => Sys2Proof.Machine.execLiveStart drive state s
  | .liveRun limit => Sys2Proof.Machine.execLiveRun limit s
  | .checkpoint => Sys2Proof.Machine.execCheckpoint s
  | .rollback => Sys2Proof.Machine.execRollback s
  | .liveSync => Sys2Proof.Machine.execLiveSync s
  | .liveDelay state => Sys2Proof.Machine.execLiveDelay state s
  | .liveAbort => Sys2Proof.Machine.execLiveAbort s
  | .reservedOp code => Sys2Proof.Machine.execReservedOp code s
  | .idle limit => Sys2Proof.Machine.execIdle limit s
  | .searchAddressMarkHeader limit => Sys2Proof.Machine.execSearchAddressMarkHeader limit s
  | .readHeaderBlockHeader limit => Sys2Proof.Machine.execReadHeaderBlockHeader limit s
  | .readIdBlock limit => Sys2Proof.Machine.execReadIdBlock limit s
  | .searchAddressMarkData limit => Sys2Proof.Machine.execSearchAddressMarkData limit s
  | .readDataBlockHeader limit => Sys2Proof.Machine.execReadDataBlockHeader limit s
  | .readSectorData limit => Sys2Proof.Machine.execReadSectorData limit s
  | .readSectorDataByte limit => Sys2Proof.Machine.execReadSectorDataByte limit s
  | .writeSectorSkipGap2 limit => Sys2Proof.Machine.execWriteSectorSkipGap2 limit s
  | .writeSectorData limit => Sys2Proof.Machine.execWriteSectorData limit s
  | .writeSectorDataByte limit => Sys2Proof.Machine.execWriteSectorDataByte limit s
  | .writeTrackPreSectors limit => Sys2Proof.Machine.execWriteTrackPreSectors limit s
  | .writeTrackPreSectorsByte limit => Sys2Proof.Machine.execWriteTrackPreSectorsByte limit s
  | .writeTrackSector limit => Sys2Proof.Machine.execWriteTrackSector limit s
  | .writeTrackSectorByte limit => Sys2Proof.Machine.execWriteTrackSectorByte limit s
  | .writeTrackPostSectors limit => Sys2Proof.Machine.execWriteTrackPostSectors limit s
  | .writeTrackPostSectorsByte limit => Sys2Proof.Machine.execWriteTrackPostSectorsByte limit s
  | .reservedState code => Sys2Proof.Machine.execReservedState code s
  | .rawWord w => Sys2Proof.Machine.execRawWord w s
  | .mfmByte prev v => Sys2Proof.Machine.execMfmByte prev v s
  | .fmByte v => Sys2Proof.Machine.execFmByte v s
  | .syncMfm => Sys2Proof.Machine.execSyncMfm s
  | .syncFmId => Sys2Proof.Machine.execSyncFmId s
  | .fmDam => Sys2Proof.Machine.execFmDam s
  | .fmDdam => Sys2Proof.Machine.execFmDdam s
  | .mfmIam => Sys2Proof.Machine.execMfmIam s
  | .fmIam => Sys2Proof.Machine.execFmIam s
  | .amId => Sys2Proof.Machine.execAmId s
  | .amData => Sys2Proof.Machine.execAmData s
  | .amDdata => Sys2Proof.Machine.execAmDdata s
  | .amIndex => Sys2Proof.Machine.execAmIndex s
  | .fDamDeleted => Sys2Proof.Machine.execFDamDeleted s
  | .fDataMarkMissing => Sys2Proof.Machine.execFDataMarkMissing s
  | .fOverrun => Sys2Proof.Machine.execFOverrun s
  | .readTrack a => Sys2Proof.Machine.execReadTrack a s
  | .specify flags b1 b2 => Sys2Proof.Machine.execSpecify flags b1 b2 s
  | .senseDriveStatus flags hu => Sys2Proof.Machine.execSenseDriveStatus flags hu s
  | .writeData a => Sys2Proof.Machine.execWriteData a s
  | .readData a => Sys2Proof.Machine.execReadData a s
  | .recalibrate flags hu => Sys2Proof.Machine.execRecalibrate flags hu s
  | .senseInterruptStatus flags => Sys2Proof.Machine.execSenseInterruptStatus flags s
  | .writeDeletedData a => Sys2Proof.Machine.execWriteDeletedData a s
  | .readId flags hu => Sys2Proof.Machine.execReadId flags hu s
  | .readDeletedData a => Sys2Proof.Machine.execReadDeletedData a s
  | .formatTrack flags hu n sc gpl d => Sys2Proof.Machine.execFormatTrack flags hu n sc gpl d s
  | .dumpReg flags => Sys2Proof.Machine.execDumpReg flags s
  | .seek flags hu ncn => Sys2Proof.Machine.execSeek flags hu ncn s
  | .version flags => Sys2Proof.Machine.execVersion flags s
  | .scanEqual a => Sys2Proof.Machine.execScanEqual a s
  | .configure flags b1 b2 b3 => Sys2Proof.Machine.execConfigure flags b1 b2 b3 s
  | .lock flags => Sys2Proof.Machine.execLock flags s
  | .scanLowOrEqual a => Sys2Proof.Machine.execScanLowOrEqual a s
  | .scanHighOrEqual a => Sys2Proof.Machine.execScanHighOrEqual a s

end Sys2Proof.Machine
end

