-- ==== Sys2Proof/Machine/Reset.lean ====
section
/-! DEFINITION. Hard and soft reset (70_reset_and_hazards R390 to R392, 10_state R51, 47_host_interface R338). -/

namespace Sys2Proof.Machine

/-- The reset values of the block: `pll` as after PLL_SET_CLOCK(`cfg.cell_nominal`), `snap` equal to (`live`, `pll`), the
FIFO empty (10_state R51, 70_reset_and_hazards R390). A `cfg.cell_nominal` out of its range is taken as it is
(log 46). -/
def blockReset (cfg : Cfg) (s : State) : State :=
  let p := Pll.reset.setClock s.par cfg.cellNominal
  { s with live := Live.reset, pll := p, snap := ⟨Live.reset, p⟩, fifo := [], cfg := cfg }

/-- The controller after a soft reset: the reset values, but for the Digital Output Register, which holds the reset bit,
the lock flag, and with it CONFIGURE's bytes (46_command_engine R304, log 40). -/
def Controller.softReset (par : Params) (c : Controller) : Controller :=
  { Controller.reset par.rate with
    dor := c.dor
    lock := c.lock
    conf1 := if c.lock then c.conf1 else 0
    conf2 := if c.lock then c.conf2 else 0
    conf3 := if c.lock then c.conf3 else 0 }

/-- Every drive slot at its reset values; the media stay. -/
def slotsReset (s : State) : State := { s with drives := s.drives.map fun d => Drive.reset d.med }

/-- The tick of a reset is remembered: nothing else delivered at it changes the reset state (60_exceptions R360). -/
def markReset (s : State) : State := { s with resetAt := some s.now }

/-- The LIVE_ABORT that a reset begins with. A reset overrides everything (60_exceptions R360): where LIVE_ABORT would be
refused or fault, nothing more is written and the reset goes on (log 52). -/
def abortForReset (s : State) : State :=
  match abort s with
  | .ok a => a
  | .error _ => s

/-- SOFT RESET: LIVE_ABORT, then the reset values; `cfg` unchanged (70_reset_and_hazards R390). -/
def softReset (s : State) : State :=
  let s := abortForReset s
  markReset (slotsReset ((blockReset s.cfg s).setCtrl (s.ctrl.softReset s.par)))

/-- HARD RESET: LIVE_ABORT, then the reset values, `cfg` among them (70_reset_and_hazards R390). -/
def hardReset (s : State) : State :=
  let s := abortForReset s
  markReset (slotsReset ((blockReset Cfg.reset s).setCtrl (Controller.reset s.par.rate)))

/-- The slots' statuses after a reset: each pending, its top two bits set, its unit number (47_host_interface R338). -/
def pendAll : Nat → List Drive → List Drive
  | _, [] => []
  | u, d :: ds =>
    { d with pending := some (st0TopTwo ||| headUnit false (BitVec.ofNat 2 u)) } :: pendAll (u + 1) ds

/-- The controller leaves reset: INTRQ for the four drives' pending status (47_host_interface R338). -/
def leaveReset (s : State) : State := raiseIntrq { s with drives := pendAll 0 s.drives }

end Sys2Proof.Machine
end

