-- ==== Sys2Proof/Machine/HostInterface.lean ====
section
/-! DEFINITION. The host register interface and the signal lines (47_host_interface), and the events that arrive from
outside (45_live_control R269). -/

namespace Sys2Proof.Machine

/-! Views. -/

/-- The mask of bit `k` when `b` holds. -/
def bitIf (b : Bool) (k : Nat) : Byte := (BitVec.ofBool b).zeroExtend 8 <<< k

/-- Non-DMA mode, ND of SPECIFY's second byte (46_command_engine R294, 47_host_interface R341). -/
def nonDma (s : State) : Bool := s.ctrl.spec2.getLsbD 0

/-- The host may push or pop the FIFO now, by the direction of the command in execution. -/
def fifoOpen (s : State) : Bool :=
  if s.job.kind.toMedium then decide (s.fifo.length < s.par.fifoSize)
  else s.job.kind.toHost && !s.fifo.isEmpty

/-- RQM, bit 7 of the Main Status Register: always outside EXECUTION; in EXECUTION in non-DMA mode it follows the FIFO
(47_host_interface R332, log 27, log 29). -/
def rqm (s : State) : Bool :=
  !heldInReset s &&
    match s.ctrl.phase with
    | .command => true
    | .execution => nonDma s && fifoOpen s
    | .result => true

/-- DIO, bit 6: 1 = controller to host. -/
def dio (s : State) : Bool :=
  match s.ctrl.phase with
  | .command => false
  | .execution => s.job.kind.toHost
  | .result => true

/-- CB, bit 4: a command is in progress. -/
def busy (s : State) : Bool := !(s.ctrl.phase == .command && s.ctrl.cmdBuf.isEmpty)

/-- The Main Status Register (47_host_interface R332). -/
def msr (s : State) : Byte :=
  bitIf (rqm s) 7 ||| bitIf (dio s) 6 ||| bitIf (s.ctrl.phase == .execution && nonDma s) 5 ||| bitIf (busy s) 4
    ||| bitIf (s.drive 3).seeking 3 ||| bitIf (s.drive 2).seeking 2 ||| bitIf (s.drive 1).seeking 1
    ||| bitIf (s.drive 0).seeking 0

/-- The FIFO of the transfer in execution needs host service (20_memory R83, 47_host_interface R337, log 27). -/
def fifoService (s : State) : Bool :=
  s.ctrl.phase == .execution && (s.job.kind.toHost || s.job.kind.toMedium)
    && Config.fifoNeedsService s.fifo.length (s.ctrl.conf2.extractLsb' 0 4) s.job.kind.toHost

/-- DRQ: a service request in DMA mode, gated by bit 3 of the Digital Output Register (47_host_interface R337,
60_exceptions R362). -/
def drq (s : State) : Bool := fifoService s && !nonDma s && s.ctrl.dor.getLsbD 3

/-- INTRQ on the bus: a completion or a status change, in non-DMA mode also a service request; gated by bit 3 of the
Digital Output Register (47_host_interface R337, 60_exceptions R362). -/
def intrqLine (s : State) : Bool := (s.ctrl.intrq || (nonDma s && fifoService s)) && s.ctrl.dor.getLsbD 3

/-- `pll.write_mode` (10_state R31). -/
def writeMode (s : State) : Bool := s.pll.writeStart != .never

/-- The write gate: write mode while the engine is live (20_memory R74). -/
def writeGate (s : State) : Bool := writeMode s && s.live.drive.isSome

/-- `drive[d].live` (10_state R43). -/
def liveMark (s : State) (d : Nat) : Bool := s.live.drive == some d

/-- Motor enable of drive `d`: bits 7..4 of the Digital Output Register for drives 3..0 (47_host_interface R333). -/
def motorEnable (s : State) (d : Nat) : Bool := s.ctrl.dor.getLsbD (4 + d)

/-- Drive select, bits 1..0 of the Digital Output Register (47_host_interface R333). -/
def driveSelect (s : State) : BitVec 2 := unitOf s.ctrl.dor

/-- The signals of the selected drive that Status Registers A and B show (47_host_interface R336, R337). TC is seen as
asserted while the terminal count flag is set, for the line comes as an event, and the index line at the tick of an
index instant; the write gate is the block's one gate, also while another drive than the selected one is live (DESIGN
CHOICE, log 27). -/
def linesOf (s : State) : Lines :=
  let d := s.drive (driveSelect s).toNat
  { intrq := intrqLine s
    drq := drq s
    tc := s.ctrl.tc
    motor := s.ctrl.dor.extractLsb' 4 4
    select := driveSelect s
    step := d.subState == .seekWaitStepSignalTime
    direction := d.dirOut
    writeGate := writeGate s
    headLoad := s.ctrl.headLoad
    track0 := d.med.track0
    index := d.med.present && d.med.index.has s.now
    wp := d.med.wp
    ready := d.med.ready
    rate := s.ctrl.rate }

/-! The host side of the FIFO (20_memory R81, R82, R84; log 49). -/

/-- The engine is in a read of sector data: only it puts bytes into the FIFO. -/
def engineEnqueues : LiveState → Bool
  | .searchAddressMarkData => true
  | .readDataBlockHeader => true
  | .readSectorData => true
  | .readSectorDataByte => true
  | _ => false

/-- The engine is in a write or a format: only it takes bytes from the FIFO. -/
def engineDequeues : LiveState → Bool
  | .writeSectorSkipGap2 => true
  | .writeSectorData => true
  | .writeSectorDataByte => true
  | st => inFormat st

/-- The host may put a byte into the FIFO: no transfer from the medium is in execution. -/
def hostMayPush (s : State) : Bool :=
  !(s.ctrl.phase == .execution && s.job.kind.toHost) && !engineEnqueues s.live.state

/-- The host may take a byte from the FIFO: no transfer to the medium is in execution. -/
def hostMayPop (s : State) : Bool :=
  !(s.ctrl.phase == .execution && s.job.kind.toMedium) && !engineDequeues s.live.state

/-! The data register, offset 5 (47_host_interface R335). -/

/-- The byte the host reads. -/
def answer (b : Byte) (s : State) : State := { s with hostData := b }

/-- A read that is ignored: its value is not given (47_host_interface R335, log 14). -/
def answerFree (s : State) : State :=
  let (b, s) := takeFree s
  answer b s

/-- The FIFO's bytes of a finished read have all been taken: RESULT (log 21). -/
def drained (s : State) : State := if s.job.step = .draining ∧ s.fifo = [] then enterResult s else s

/-- The host takes a byte of the FIFO (20_memory R82, R84); the answer of an empty FIFO, and of one the host may not take
from, is not given. -/
def hostPop (s : State) : State :=
  if hostMayPop s then
    match fifoPop s with
    | some (b, s) => drained (answer b s)
    | none => answerFree s
  else answerFree s

/-- The host puts a byte into the FIFO; ignored when it is full or the host may not put one in (20_memory R81, R84,
47_host_interface R335). -/
def hostPush (v : Byte) (s : State) : State := if hostMayPush s then (fifoPush v s).getD s else s

/-- The next result byte; after the last one COMMAND, and INTRQ is dropped, a drive's status pending or not (log 41),
but for SENSE INTERRUPT STATUS, whose own rule says what becomes of it (47_host_interface R335, 46_command_engine R293,
log 22). -/
def popResult (s : State) : State :=
  match s.ctrl.resBuf with
  | [] => answerFree s
  | [b] =>
    answer b (s.setCtrl { s.ctrl with
      phase := .command
      resBuf := []
      intrq := s.ctrl.intrq && s.job.kind == .senseInterrupt })
  | b :: rest => answer b (s.setCtrl { s.ctrl with resBuf := rest })

/-- The host reads the data register. -/
def readData (s : State) : State :=
  match s.ctrl.phase with
  | .command => answerFree s
  | .execution => if s.job.kind.toHost then hostPop s else answerFree s
  | .result => popResult s

/-- A command byte: when the command is complete it is started (46_command_engine R291, R292). With the command buffer
full the byte is lost (log 50). -/
def commandByte (v : Byte) (s : State) : State :=
  let buf := (s.ctrl.cmdBuf ++ [v]).take s.par.cmdBufLen
  let s := s.setCtrl { s.ctrl with cmdBuf := buf }
  if (commandLength (buf.headD 0)).getD 1 ≤ buf.length then s.issue [.request ⟨.hostcmd, buf, []⟩] else s

/-- The host writes the data register. -/
def writeData (v : Byte) (s : State) : State :=
  if heldInReset s then s
  else
    match s.ctrl.phase with
    | .command => commandByte v s
    | .execution => if s.job.kind.toMedium then hostPush v s else s
    | .result => s

/-! The other registers (47_host_interface R331). -/

/-- A write of the Digital Output Register: the reset actions at the 1 to 0 edge of the reset bit, the end of reset at the
0 to 1 edge (47_host_interface R333, R338). -/
def writeDor (v : Byte) (s : State) : State :=
  let s' := s.setCtrl { s.ctrl with dor := v }
  if s.ctrl.dor.getLsbD 2 && !v.getLsbD 2 then softReset s'
  else if !s.ctrl.dor.getLsbD 2 && v.getLsbD 2 then leaveReset s'
  else s'

/-- A write of Data Rate Select: the rate; bit 7 is a reset that ends by itself (47_host_interface R334, log 28,
log 29). -/
def writeDsr (v : Byte) (s : State) : State :=
  let rated (s : State) : State := s.setCtrl { s.ctrl with dsr := v &&& 0x7F, rate := rateOfCode v }
  if v.getLsbD 7 then leaveReset (rated (softReset s)) else rated s

/-- A write of Configuration Control: the rate (47_host_interface R334). -/
def writeCcr (v : Byte) (s : State) : State := s.setCtrl { s.ctrl with ccr := v, rate := rateOfCode v }

/-- The Digital Input Register: bit 7 is the disk change line of the selected drive; the rest is not given
(47_host_interface R339, log 27). -/
def readDir (s : State) : State :=
  let changed := (s.drive (driveSelect s).toNat).med.dskchg
  let (b, s) := takeFree s
  answer (bitIf changed 7 ||| (b &&& 0x7F)) s

/-- A host write (47_host_interface R331). Status Registers A and B are read-only; offset 6 is refused (log 30). -/
def hostWrite (off : Nat) (v : Byte) (s : State) : Res State :=
  match off with
  | 0 => .ok s
  | 1 => .ok s
  | 2 => .ok (writeDor v s)
  | 3 => .ok (s.setCtrl { s.ctrl with tdr := v })
  | 4 => .ok (writeDsr v s)
  | 5 => .ok (writeData v s)
  | 7 => .ok (writeCcr v s)
  | _ => refuse .noSuchOffset

/-- A host read (47_host_interface R331); offset 6 has no register and answers any value (93_implementation_defined,
log 30). -/
def hostRead (off : Nat) (s : State) : Res State :=
  match off with
  | 0 => .ok (answer (Config.statusRegisterA (linesOf s)) s)
  | 1 => .ok (answer (Config.statusRegisterB (linesOf s)) s)
  | 2 => .ok (answer s.ctrl.dor s)
  | 3 => .ok (answer s.ctrl.tdr s)
  | 4 => .ok (answer (msr s) s)
  | 5 => .ok (readData s)
  | 6 => .ok (answerFree s)
  | 7 => .ok (readDir s)
  | _ => refuse .noSuchOffset

/-! Events. -/

/-- A medium as the model keeps it: its times in order. -/
def Medium.canonical (m : Medium) : Medium :=
  { m with flux := Memory.ofTimes m.flux, index := Memory.ofTimes m.index }

/-- A reset has been performed at this tick. -/
def atReset (s : State) : Bool := s.resetAt == some s.now

/-- The events that a reset at the same tick overrides, leaving the reset state; another reset, the reset bit, a read and
the signals of the media are not among them (60_exceptions R360, log 18). -/
def overridden : Event → Bool
  | .tc => true
  | .fifoPut _ => true
  | .fifoGet => true
  | .setCfg _ => true
  | .operate _ => true
  | .hostWrite off _ => off != 2
  | _ => false

/-- An unsolicited change of the ready line: a pending status, IC = 11, and INTRQ (47_host_interface R337, log 29,
log 33). -/
def readyChanged (d : Nat) (st0 : Byte) (s : State) : State := if atReset s then s else pendStatus d st0 s

/-- The ready line of drive `d`. -/
def setReady (d : Nat) (b : Bool) (s : State) : State :=
  s.setDrive d { s.drive d with med := { (s.drive d).med with ready := b } }

/-- What an event does (45_live_control R269, 60_exceptions R357, R358). A drive that is not live does not concern the
block: a command on it ends without LIVE_SYNC and LIVE_ABORT. -/
def handle (e : Event) (s : State) : Res State :=
  match e with
  | .tc => .ok ((s.setCtrl { s.ctrl with tc := true }).issue (syncThen .afterTc))
  | .notReady d =>
    let s' := setReady d false s
    .ok (
      if s.live.drive = some d then s'.issue (syncThen (.afterNotReady d))
      else if commandUses s d then s'.issue [.client (notReadyEnd d s)]
      else readyChanged d (st0TopTwo ||| st0NotReady) s')
  | .nowReady d => .ok (readyChanged d st0TopTwo (setReady d true s))
  | .hardReset => .ok (hardReset s)
  | .softReset => .ok (leaveReset (softReset s))
  | .hostWrite off v => hostWrite off v s
  | .hostRead off => hostRead off s
  | .fifoPut v => .ok (hostPush v s)
  | .fifoGet => .ok (hostPop s)
  | .setCfg c => .ok (writeCfg c s)
  | .attach d m => .ok (s.setDrive d { s.drive d with med := m.canonical })
  | .operate r => .ok (s.issue [.request r])

/-- An event at the present tick; after a reset at the same tick the state stays the reset state (60_exceptions R360). -/
def deliver (e : Event) (s : State) : Res State := if atReset s && overridden e then .ok s else handle e s

end Sys2Proof.Machine
end

