-- ==== Sys2Proof/Machine/Scheduler.lean ====
section
/-! DEFINITION. The scheduler (45_live_control R260, R269, 60_exceptions R360, R361): which of the wake-ups, index pulses,
head and seek timers comes next, and what each does. Same tick: wake-up, index, head, seek timers, then events
(log 18). -/

namespace Sys2Proof.Machine

/-- What the scheduler delivers by itself. -/
inductive Alarm where
  | wake
  | index
  | head
  | seek (u : Nat)
  deriving DecidableEq, Repr

/-- The drive whose index pulses the Command Engine counts: the live drive, or that of the command in execution once its
head is loaded. A pulse at the very tick at which this begins is delivered after it (log 18). -/
def watched (s : State) : Option Nat :=
  match s.live.drive with
  | some d => some d
  | none => if s.job.step = .none ∨ s.job.step = .headLoad ∨ s.job.step = .draining then none else some s.job.unit.toNat

/-- The next index pulse not delivered yet (log 18). -/
def nextIndex (s : State) : Time :=
  match watched s with
  | none => .never
  | some d =>
    let m := (s.drive d).med
    if m.present then m.index.nextFrom (max s.now s.idxDone) else .never

/-- The seek timers that run, with their drives. -/
def seekTimers : Nat → List Drive → List (Nat × Alarm)
  | _, [] => []
  | u, d :: ds =>
    match d.stepAt with
    | some t => (t, .seek u) :: seekTimers (u + 1) ds
    | none => seekTimers (u + 1) ds

/-- Everything the scheduler may deliver, in the order of one tick. -/
def alarms (s : State) : List (Nat × Alarm) :=
  (s.wakeups.take 1).map (fun t => (t, .wake))
    ++ (match nextIndex s with | .ticks t => [(t, .index)] | .never => [])
    ++ (match s.ctrl.headAt with | some t => [(t, .head)] | none => [])
    ++ seekTimers 0 s.drives

/-- The earliest of them; of those at one tick the first. -/
def firstAlarm : List (Nat × Alarm) → Option (Nat × Alarm)
  | [] => none
  | a :: rest =>
    match firstAlarm rest with
    | none => some a
    | some b => if b.1 < a.1 then some b else some a

/-- Real time reaches `t`; it never goes back. -/
def reach (t : Nat) (s : State) : State := { s with now := max s.now t }

/-- An alarm at time `t`. -/
def sound (t : Nat) (a : Alarm) (s : State) : State :=
  match a with
  | .wake => (reach t { s with wakeups := s.wakeups.drop 1 }).issue (syncThen .afterWake)
  | .index => (reach t { s with idxDone := t + 1 }).issue (syncThen .afterIndex)
  | .head => headTick (reach t s)
  | .seek u => seekTick u (reach t s)

/-- The alarm due not later than `limit`. -/
def dueBy (limit : Time) (s : State) : Option (Nat × Alarm) :=
  match firstAlarm (alarms s) with
  | none => none
  | some a => if Time.le (.ticks a.1) limit then some a else none

end Sys2Proof.Machine
end

