-- ==== Sys2Proof/Machine/Fetch.lean ====
section
/-! DEFINITION. Taking what stands in the inbox: a request is decoded and executed, a step of the Command Engine is taken,
an event is delivered when its time has come (log 6, log 17, log 18). -/

namespace Sys2Proof.Machine

/-- A request: its instruction; an unknown host command is answered as an invalid command (46_command_engine R292);
anything else that decodes to no instruction is refused (92 D35). -/
def runRequest (r : Request) (s : State) : Host.Outcome State Fault Refusal :=
  match decode r with
  | .ok i => exec i s
  | .error .unknownHostCommand => accepted s invalidCommand
  | .error e => .refused (.badRequest e)

/-- The event at the head of the inbox, at its time `t`, once nothing is due before it. -/
def runEvent (t : Nat) (e : Event) (rest : List Input) (s : State) : Host.Outcome State Fault Refusal :=
  match dueBy (.ticks t) s with
  | some (ta, a) => .next (sound ta a s)
  | none => finish (deliver e (reach t { s with inbox := rest }))

/-- Nothing waits: the scheduler's next alarm; with none the machine rests. -/
def runIdle (s : State) : State :=
  match dueBy .never s with
  | some (ta, a) => sound ta a s
  | none => s

/-- One step: what stands first in the inbox. A request has no time: it is carried out when it is reached, at the tick
of a reset too (log 18). -/
def advanceOne (s : State) : Host.Outcome State Fault Refusal :=
  match s.inbox with
  | [] => .next (runIdle s)
  | .request r :: rest => runRequest r { s with inbox := rest }
  | .client c :: rest => .next (clientStep c { s with inbox := rest })
  | .event t e :: rest => runEvent t e rest s

end Sys2Proof.Machine
end

