-- ==== Sys2Proof/Machine/Step.lean ====
section
/-! DEFINITION. The step, and the host's placing of an instruction where the step fetches the next one. -/

namespace Sys2Proof.Machine

/-- One step of the machine (log 6). -/
def step (s : State) : Host.Outcome State Fault Refusal := advanceOne s

/-- The instruction of a bare table word stands first in the inbox (log 5, log 6). -/
def State.withFetchWord (s : State) (nbits w : Nat) : State :=
  { s with inbox := .request (tableRequest nbits w) :: s.inbox }

end Sys2Proof.Machine
end

