-- ==== Sys2Proof/Safety.lean ====
section
/-! DEFINITION. What a safe run is and the properties the statements speak of: runs without a stop, media and FIFO in
form, a PLL whose cells have positive length, whole runs of cells written and read, the classes of instructions. -/

namespace Sys2Proof.Safety

open Sys2Proof.Machine

/-- `n` steps from `s` end in a state: none of them stops with a fault or a refusal. -/
def runsFor : Nat → State → Bool
  | 0, _ => true
  | n + 1, s =>
    match step s with
    | .next s' => runsFor n s'
    | _ => false

/-- A medium in canonical form. -/
def Canonical (m : Medium) : Prop := m.flux.wf = true ∧ m.index.wf = true

/-- Every medium, and the list of wake-ups, is in canonical form. -/
def MediaCanonical (s : State) : Prop := (∀ d ∈ s.drives, Canonical d.med) ∧ Memory.wf s.wakeups = true

/-- The FIFO holds at most FIFO_SIZE bytes (20_memory R80). -/
def FifoFits (s : State) : Prop := s.fifo.length ≤ s.par.fifoSize

/-- A PLL between two cells: the period within its bounds, the phase adjustment within its bound, and that bound below the
shortest period (00_scope R8, 40_pll R155, R156, R158). -/
def PllSound (p : Pll) : Prop :=
  p.minPeriod ≤ p.period ∧ p.period ≤ p.maxPeriod ∧ p.phaseAdjust.natAbs ≤ p.maxAdj ∧ p.maxAdj < p.minPeriod

/-- The constraints of 00_scope R8 on the PLL's fractions: PLL_SET_CLOCK of a period it accepts gives bounds that enclose the
period and a largest adjustment below the shortest period. -/
def ClockSound (par : Params) : Prop :=
  ∀ (p : Pll) (period : Nat), 2 ≤ period →
    (p.setClock par period).minPeriod ≤ period ∧ period ≤ (p.setClock par period).maxPeriod ∧
      (p.setClock par period).maxAdj < (p.setClock par period).minPeriod

/-- A live context with its PLL as the engine keeps them: with no drive live IDLE, no time, no write mode; with a drive live a
running state, `live.tm` at the cursor of a PLL whose cells have positive length, and every buffered transition at or
after the span's start and before the cursor (10_state R24, R43, 45_live_control R262). -/
def ContextSound (l : Live) (p : Pll) : Prop :=
  match l.drive with
  | none => l.state = .idle ∧ l.tm = .never ∧ p.writeStart = .never
  | some _ =>
    l.state ≠ .idle ∧ PllSound p ∧ ∃ c : Nat, l.tm = .ticks c ∧ p.ctime = .ticks c ∧
      ∀ b : Nat, p.writeStart = .ticks b →
        b ≤ c ∧ ∀ x ∈ p.wbuf, ∃ n : Nat, x = .ticks n ∧ b ≤ n ∧ n < c

/-- The engine and its checkpoint are sound. -/
def EngineSound (s : State) : Prop :=
  ClockSound s.par ∧ ContextSound s.live s.pll ∧ ContextSound s.snap.live s.snap.pll

/-- The operations that move the PLL, the write buffer or one cell by themselves: requested alone they may leave `live.tm`
beside the cursor, or the buffer outside the span. -/
def movesAlone : Instr → Bool
  | .pllSetClock _ => true
  | .pllReset _ => true
  | .getNextBit _ => true
  | .writeNextBit _ _ => true
  | .startWriting _ => true
  | .commit _ => true
  | .stopWriting _ => true
  | .readOneBit _ => true
  | .writeOneBit _ => true
  | _ => false

/-- The row of a live state. -/
def stateRow (limit : Time) : LiveState → Instr
  | .idle => .idle limit
  | .searchAddressMarkHeader => .searchAddressMarkHeader limit
  | .readHeaderBlockHeader => .readHeaderBlockHeader limit
  | .readIdBlock => .readIdBlock limit
  | .searchAddressMarkData => .searchAddressMarkData limit
  | .readDataBlockHeader => .readDataBlockHeader limit
  | .readSectorData => .readSectorData limit
  | .readSectorDataByte => .readSectorDataByte limit
  | .writeSectorSkipGap2 => .writeSectorSkipGap2 limit
  | .writeSectorData => .writeSectorData limit
  | .writeSectorDataByte => .writeSectorDataByte limit
  | .writeTrackPreSectors => .writeTrackPreSectors limit
  | .writeTrackPreSectorsByte => .writeTrackPreSectorsByte limit
  | .writeTrackSector => .writeTrackSector limit
  | .writeTrackSectorByte => .writeTrackSectorByte limit
  | .writeTrackPostSectors => .writeTrackPostSectors limit
  | .writeTrackPostSectorsByte => .writeTrackPostSectorsByte limit

/-- Cells written one after the other, without limit (41_write_encoder R173). -/
def writeAll (par : Params) : List Bool → Pll → Res Pll
  | [], p => .ok p
  | b :: bs, p => (p.writeNextBit par b .never).bind fun x => writeAll par bs x.2

/-- The next `n` cells read from a track, without limit (40_pll R152). -/
def readAll (par : Params) (m : Memory) : Nat → Pll → List Bool
  | 0, _ => []
  | n + 1, p =>
    match p.getNextBit par (m.after p.ctime) .never with
    | none => []
    | some (b, p) => b :: readAll par m n p

/-- The PLL after given cells have passed, each 1 cell with its transition at the cell's phase center (40_pll R152, log 2). -/
def passPll (par : Params) : List Bool → Pll → Pll
  | [], p => p
  | b :: bs, p =>
    match p.getNextBit par (if b then .ticks p.nextCenter else .never) .never with
    | none => p
    | some (_, p) => passPll par bs p

/-- The live context when a deferred transition to `st` is made: in IDLE the live mark has dropped and `live.tm` is NEVER
(45_live_control R267, 60_exceptions R363). -/
def arrived (st : LiveState) (l : Live) : Live :=
  if st = .idle then { l with state := .idle, nextState := none, drive := none, tm := .never }
  else { l with state := st, nextState := none }

/-- `out` is what LIVE_DELAY(st) makes of state `c` with the live context `l`, ending with outcome `oc`: a wake-up ahead of
`now`; at `now` COMMIT, the transition on the spot and its checkpoint, a transition to IDLE leaving write mode; before
`now` a refusal (45_live_control R266, R267; a second wake-up for one tick is the first, log 62). -/
def DefersTo (oc : OpOutcome) (st : LiveState) (l : Live) (c : State) (out : Host.Outcome State Fault Refusal) : Prop :=
  (l.tm = .never → out = .next { c with outcome := oc, live := { l with nextState := some st } }) ∧
  (∀ n : Nat, l.tm = .ticks n → c.now < n →
    out = .next { c with
      outcome := oc, live := { l with nextState := some st }, wakeups := Memory.insert c.wakeups n }) ∧
  (l.tm = .ticks c.now →
    (∀ (w : State) (p : Pll), exec (.commit l.tm) { c with live := l } = .next w →
      p = (if st = .idle then { w.pll with writeStart := .never } else w.pll) →
      out = .next { w with outcome := oc, live := arrived st l, pll := p, snap := ⟨arrived st l, p⟩ }) ∧
    (∀ r : Refusal, exec (.commit l.tm) { c with live := l } = .refused r → out = .refused r)) ∧
  (∀ n : Nat, l.tm = .ticks n → n < c.now → out = .refused .delayInThePast)

/-- `out` is what the CHECKPOINT that ends a rule at a confirmed time makes of state `x`, with outcome CONT: what a live drive
has written is committed, and (live, pll) is copied (45_live_control R264). -/
def CheckpointsAs (x : State) (out : Host.Outcome State Fault Refusal) : Prop :=
  ((x.live.drive = none ∨ x.pll.writeStart = .never ∨ x.pll.writeStart = x.live.tm) →
    out = .next { x with outcome := .cont, snap := ⟨x.live, x.pll⟩ }) ∧
  (x.live.drive ≠ none →
    (∀ w : State, exec (.commit x.live.tm) x = .next w →
      out = .next { w with outcome := .cont, snap := ⟨w.live, w.pll⟩ }) ∧
    (∀ r : Refusal, exec (.commit x.live.tm) x = .refused r → out = .refused r))

/-- The row `i` of state `st` executes nothing out of that state or with a deferred transition pending (log 1). -/
def RowNeedsState (i : Instr) (st : LiveState) (s : State) : Prop :=
  s.live.state ≠ st ∨ s.live.nextState ≠ none → exec i s = .next (s.setOutcome .notRunning)

/-- No wake-up before the time `wake`, no index pulse before `index`, no head timer before `head`, no seek timer of drive `u`
before `seek u`. -/
def QuietUntil (wake index head : Nat) (seek : Nat → Nat) (s : State) : Prop :=
  (∀ w : Nat, s.wakeups.head? = some w → wake ≤ w) ∧ (∀ i : Nat, nextIndex s = .ticks i → index ≤ i) ∧
  (∀ h : Nat, s.ctrl.headAt = some h → head ≤ h) ∧
  ∀ u k : Nat, u < s.drives.length → (s.drive u).stepAt = some k → seek u ≤ k

/-- The requests and the look that start or go on with a run (45_live_control R260). -/
def runInputs : List Input := [.request (encode (.liveRun .never)), .client .afterRun]

/-- The word that passes under the head in a row of format RAW16, MARK16 or AM8. -/
def wordOf (s : State) : Instr → Option Word
  | .rawWord w => some w
  | .mfmByte p v => some (mfmWord p v)
  | .fmByte v => some (fmWord v)
  | .syncMfm => some s.par.syncMfm
  | .syncFmId => some s.par.syncFmId
  | .fmDam => some s.par.fmDam
  | .fmDdam => some s.par.fmDdam
  | .mfmIam => some s.par.mfmIam
  | .fmIam => some s.par.fmIam
  | .amId => some (markByteWord s.par.amId 0 s)
  | .amData => some (markByteWord s.par.amData 1 s)
  | .amDdata => some (markByteWord s.par.amDdata 2 s)
  | .amIndex => some (markByteWord s.par.amIndex 3 s)
  | _ => none

/-- The rows of format HOSTCMD. -/
def isHostCommand : Instr → Bool
  | .readTrack _ => true
  | .specify _ _ _ => true
  | .senseDriveStatus _ _ => true
  | .writeData _ => true
  | .readData _ => true
  | .recalibrate _ _ => true
  | .senseInterruptStatus _ => true
  | .writeDeletedData _ => true
  | .readId _ _ => true
  | .readDeletedData _ => true
  | .formatTrack _ _ _ _ _ _ => true
  | .dumpReg _ => true
  | .seek _ _ _ => true
  | .version _ => true
  | .scanEqual _ => true
  | .configure _ _ _ _ => true
  | .lock _ => true
  | .scanLowOrEqual _ => true
  | .scanHighOrEqual _ => true
  | _ => false

/-- The head/unit byte of a command that has an execution phase on a drive (46_command_engine R291). -/
def headUnitByte : Instr → Option Byte
  | .readTrack a => some a.hu
  | .writeData a => some a.hu
  | .readData a => some a.hu
  | .writeDeletedData a => some a.hu
  | .readId _ hu => some hu
  | .readDeletedData a => some a.hu
  | .formatTrack _ hu _ _ _ _ => some hu
  | .scanEqual a => some a.hu
  | .scanLowOrEqual a => some a.hu
  | .scanHighOrEqual a => some a.hu
  | _ => none

/-- The commands that write the medium (46_command_engine R299, R301). -/
def writesMedium : Instr → Bool
  | .writeData _ => true
  | .writeDeletedData _ => true
  | .formatTrack _ _ _ _ _ _ => true
  | _ => false

/-- C, H, R, N of a command that names its target (46_command_engine R291). -/
def targetBytes : Instr → Option (List Byte)
  | .readTrack a => some [a.c, a.h, a.r, a.n]
  | .writeData a => some [a.c, a.h, a.r, a.n]
  | .readData a => some [a.c, a.h, a.r, a.n]
  | .writeDeletedData a => some [a.c, a.h, a.r, a.n]
  | .readDeletedData a => some [a.c, a.h, a.r, a.n]
  | .scanEqual a => some [a.c, a.h, a.r, a.n]
  | .scanLowOrEqual a => some [a.c, a.h, a.r, a.n]
  | .scanHighOrEqual a => some [a.c, a.h, a.r, a.n]
  | _ => none

/-- The operands of the commands whose bitstream behaviour the spec does not describe (91_not_in_source N30, N31). -/
def undescribedArgs : Instr → Option DataArgs
  | .readTrack a => some a
  | .scanEqual a => some a
  | .scanLowOrEqual a => some a
  | .scanHighOrEqual a => some a
  | _ => none

end Sys2Proof.Safety
end

