-- ==== Sys2Proof/Certificates/Slice0/Obligations.lean ====
section
/-! DEFINITION. The statements for the provers. -/

open Sys2Proof Sys2Proof.Machine Sys2Proof.Safety

/-! Encoding and fetching. -/

/-- A step runs the instruction that the request at the head of the inbox decodes to, with that request taken out of the
inbox and nothing else done around it (log 6). -/
def Obligations.StepRunsDecodedInstruction : Prop :=
  ∀ (s : State) (r : Request) (rest : List Input) (i : Instr),
    s.inbox = .request r :: rest → decode r = .ok i → step s = exec i { s with inbox := rest }

/-- A few codes written out from 30_encoding R115, R116, R134, R135, R136 and 46_command_engine R291 decode to their
instructions. -/
def Obligations.WrittenCodesDecode : Prop :=
  decode ⟨.op, [0x10], [.ticks 0, .ticks 4]⟩ = .ok (.liveStart 0 .searchAddressMarkData) ∧
  decode ⟨.op, [0x03], [.ticks 24000]⟩ = .ok (.getNextBit (.ticks 24000)) ∧
  decode ⟨.op, [0x06], [.never]⟩ = .ok (.commit .never) ∧
  decode ⟨.op, [0x17], []⟩ = .ok (.reservedOp 0x17) ∧
  decode ⟨.state, [0x0D], [.never]⟩ = .ok (.writeTrackSector .never) ∧
  decode ⟨.state, [0x11], []⟩ = .ok (.reservedState 0x11) ∧
  decode ⟨.mark16, [0x89, 0x44], []⟩ = .ok .syncMfm ∧
  decode ⟨.raw16, [0x54, 0x12], []⟩ = .ok (.mfmByte true 0x4E) ∧
  decode ⟨.am8, [0xF8], []⟩ = .ok .amDdata ∧
  decode ⟨.flag, [0x04], []⟩ = .ok .fOverrun ∧
  decode ⟨.hostcmd, [0x4A, 0x01], []⟩ = .ok (.readId 2 0x01)

/-- Decoding what the encoder writes gives the instruction back, for every well-formed instruction and every value of
every operand. -/
def Obligations.DecodeInvertsEncode : Prop :=
  ∀ i : Instr, i.wf = true → decode (encode i) = .ok i

/-- The MFM and FM encodings: data cells carry the byte; an MFM clock cell is 1 exactly when both data bits beside it are
0; every FM clock cell is 1 (30_encoding R112, R113, R114). Every raw word has one reading: the instruction it decodes to
is well-formed and is written as that word. -/
def Obligations.RawWordsHaveOneReading : Prop :=
  (∀ (p : Bool) (v : Byte) (k : Nat), k < 8 →
    (mfmWord p v).getLsbD (2 * k) = v.getLsbD k ∧
    (mfmWord p v).getLsbD (2 * k + 1) = (!v.getLsbD k && !(if k = 7 then p else v.getLsbD (k + 1))) ∧
    (fmWord v).getLsbD (2 * k) = v.getLsbD k ∧ (fmWord v).getLsbD (2 * k + 1) = true ∧
    dataByte (mfmWord p v) = v ∧ dataByte (fmWord v) = v) ∧
  ∀ w : Word, (decodeRaw w).wf = true ∧ encode (decodeRaw w) = encodeWord .raw16 w

/-! The PLL. -/

/-- PLL_SET_CLOCK: a period of 2 or more sets the constants and the period and nothing else, a shorter one is refused;
with the reference fractions the bounds enclose the period. PLL_RESET: the cursor is set, to a number or NEVER, the
adjustments cleared, the buffered transitions discarded, write mode left; the period and PLL_SET_CLOCK's values are
kept. -/
def Obligations.PllSetClockAndResetResult : Prop :=
  (∀ (s : State) (period : Nat), 2 ≤ period →
    exec (.pllSetClock period) s = .next { s with
      outcome := .none
      pll := { s.pll with
        nominal := period
        period := period
        adjBase := period * s.par.pllFreqNum / s.par.pllFreqDen
        minPeriod := period * s.par.pllMinNum / s.par.pllMinDen
        maxPeriod := period * s.par.pllMaxNum / s.par.pllMaxDen
        maxAdj := s.par.pllMaxPhaseAdj.getD (period * s.par.pllMinNum / s.par.pllMinDen - 1) } }) ∧
  (∀ (s : State) (period : Nat), period < 2 → exec (.pllSetClock period) s = .refused .clockPeriodTooShort) ∧
  (∀ (s t : State) (period : Nat), s.par = Params.reference → exec (.pllSetClock period) s = .next t →
    1 ≤ t.pll.minPeriod ∧ t.pll.minPeriod ≤ period ∧ period ≤ t.pll.maxPeriod) ∧
  (∀ (s : State) (t : Time),
    exec (.pllReset t) s = .next { s with
      outcome := .none
      pll := { s.pll with ctime := t, phaseAdjust := 0, freqHist := 0, wbuf := [], writeStart := .never } })

/-- GET_NEXT_BIT: NOBIT changes nothing; a cell without a transition reads 0; a cell with one reads 1 and corrects the
phase and, after a run of errors of one sign, the period. `next` is the end of the cell. With the cursor at NEVER a
finite limit gives NOBIT and no limit a 0 cell. -/
def Obligations.GetNextBitResult : Prop :=
  (∀ (s : State) (limit : Time) (c next : Nat), s.pll.ctime = .ticks c →
    (next : Int) = c + s.pll.period + s.pll.phaseAdjust →
    (Time.lt limit (.ticks next) = true → exec (.getNextBit limit) s = .next (s.setOutcome .noBit)) ∧
    (Time.lt limit (.ticks next) = false →
      (Time.lt (.ticks next) (mediumNext s (.ticks c)) = true →
        exec (.getNextBit limit) s = .next { s with
          outcome := .bit0
          pll := { s.pll with ctime := .ticks next, phaseAdjust := 0 } }) ∧
      (∀ (edge : Nat) (delta hist : Int), mediumNext s (.ticks c) = .ticks edge → edge ≤ next →
        delta = (edge : Int) - ((next : Int) - (s.pll.period / 2 : Nat)) →
        hist = (if delta < 0 then
            (if s.pll.freqHist < 0 then max (s.pll.freqHist - 1) (-s.par.pllFreqHistMin) else -1)
          else if 0 < delta then
            (if 0 < s.pll.freqHist then min (s.pll.freqHist + 1) s.par.pllFreqHistMin else 1)
          else 0) →
        exec (.getNextBit limit) s = .next { s with
          outcome := .bit1
          pll := { s.pll with
            ctime := .ticks next
            phaseAdjust := clamp ((delta * s.par.pllPhaseNum).tdiv s.par.pllPhaseDen) (-s.pll.maxAdj) s.pll.maxAdj
            freqHist := hist
            period :=
              if s.par.pllFreqHistMin ≤ hist.natAbs then
                (clamp (s.pll.period + (s.pll.adjBase * delta).tdiv s.pll.period) s.pll.minPeriod
                  s.pll.maxPeriod).toNat
              else s.pll.period } }))) ∧
  (∀ s : State, s.pll.ctime = .never →
    (∀ n : Nat, exec (.getNextBit (.ticks n)) s = .next (s.setOutcome .noBit)) ∧
    exec (.getNextBit .never) s = .next { s with outcome := .bit0, pll := { s.pll with phaseAdjust := 0 } })

/-- Of several transitions in one cell only the first is looked at: after the cell has been read as a 1, no transition up
to the cell's end is returned by a look from the cell's end or any later time. -/
def Obligations.SecondTransitionInCellIsLost : Prop :=
  ∀ (s t : State) (limit : Time) (first last : Nat), exec (.getNextBit limit) s = .next t → t.outcome ≠ .noBit →
    s.pll.cellEnd = .ticks last → mediumNext s s.pll.ctime = .ticks first → first ≤ last →
    t.outcome = .bit1 ∧ t.pll.ctime = .ticks last ∧
      ∀ second later : Nat, second ≤ last → last ≤ later → mediumNext t (.ticks later) ≠ .ticks second

/-- Every cell read has positive length, at most the longest period and adjustment, and leaves the PLL with its period
and adjustment within their bounds, so that the next cell has positive length too. -/
def Obligations.CellsHavePositiveLength : Prop :=
  ∀ (s t : State) (limit : Time) (c : Nat), PllSound s.pll → s.pll.ctime = .ticks c →
    exec (.getNextBit limit) s = .next t → t.outcome ≠ .noBit →
    PllSound t.pll ∧ ∃ e : Nat, t.pll.ctime = .ticks e ∧ c < e ∧ e ≤ c + s.pll.maxPeriod + s.pll.maxAdj

/-- With no transition ahead of the cursor every call returns 0 and moves the cursor by exactly the period, after the
first call, which still applies the pending phase adjustment; the period and the history stay. -/
def Obligations.SilenceReadsZero : Prop :=
  ∀ (s : State) (c next : Nat), s.pll.ctime = .ticks c → (next : Int) = c + s.pll.period + s.pll.phaseAdjust →
    c ≤ next → (∀ t : Nat, c ≤ t → mediumNext s (.ticks t) = .never) →
    exec (.getNextBit .never) s = .next { s with
      outcome := .bit0
      pll := { s.pll with ctime := .ticks next, phaseAdjust := 0 } } ∧
    ∀ n : Nat,
      exec (.getNextBit .never) { s with
        pll := { s.pll with ctime := .ticks (next + n * s.pll.period), phaseAdjust := 0 } } = .next { s with
          outcome := .bit0
          pll := { s.pll with ctime := .ticks (next + (n + 1) * s.pll.period), phaseAdjust := 0 } }

/-! The write encoder. -/

/-- WRITE_NEXT_BIT: the implicit start of write mode; WOULD_EXCEED with nothing else changed; a 0 cell moves the cursor;
a 1 cell buffers one transition at its center; a full buffer is a fault. -/
def Obligations.WriteNextBitResult : Prop :=
  ∀ (s : State) (bit : Bool) (limit : Time) (p : Pll) (c etime : Nat), s.pll.ctime = .ticks c →
    p = (match s.pll.writeStart with
      | .never => { s.pll with writeStart := .ticks c, wbuf := [] }
      | .ticks _ => s.pll) →
    etime = c + s.pll.period →
    (Time.lt limit (.ticks etime) = true →
      exec (.writeNextBit bit limit) s = .next { s with pll := p, outcome := .wouldExceed }) ∧
    (Time.lt limit (.ticks etime) = false →
      (bit = false →
        exec (.writeNextBit bit limit) s = .next { s with pll := { p with ctime := .ticks etime }, outcome := .ok }) ∧
      (bit = true → p.wbuf.length < s.par.wbufLen →
        exec (.writeNextBit bit limit) s = .next { s with
          pll := { p with ctime := .ticks etime, wbuf := p.wbuf ++ [.ticks (c + s.pll.period / 2)] }
          outcome := .ok }) ∧
      (bit = true → s.par.wbufLen ≤ p.wbuf.length →
        exec (.writeNextBit bit limit) s = .fault .writeBufferOverflow))

/-- COMMIT: nothing outside write mode or for an empty span; otherwise the span [write_start_time, tm) of the current
drive's medium is erased and the buffered transitions are on it (one before the span where it lies, log 47), every other
time and every other drive reads as before, a protected or absent medium is not written; out of order it is refused. -/
def Obligations.CommitReplacesSpan : Prop :=
  ∀ (s : State) (tm : Time),
    ((s.pll.writeStart = .never ∨ s.pll.writeStart = tm) →
      exec (.commit tm) s = .next (s.setOutcome .none)) ∧
    (∀ b : Nat, s.pll.writeStart = .ticks b → Time.lt (.ticks b) tm = true →
      (∀ x ∈ s.pll.wbuf, Time.lt x tm = true) →
      ∃ t, exec (.commit tm) s = .next t ∧
        t.pll = { s.pll with writeStart := tm, wbuf := [] } ∧
        t = { s with pll := t.pll, drives := t.drives, outcome := .none } ∧
        (∀ d : Nat, d ≠ s.currentDrive → t.drive d = s.drive d) ∧
        (s.currentDrive < s.drives.length → s.medium.present = true → s.medium.wp = false →
          t.medium = { s.medium with flux := t.medium.flux } ∧
          t.drive s.currentDrive = { s.drive s.currentDrive with med := t.medium } ∧
          ∀ x : Nat, t.medium.flux.has x =
            if s.pll.wbuf.contains (.ticks x) then true
            else if b ≤ x ∧ Time.lt (.ticks x) tm = true then false else s.medium.flux.has x) ∧
        (s.medium.present = false ∨ s.medium.wp = true → ∀ d : Nat, t.drive d = s.drive d)) ∧
    (∀ b : Nat, s.pll.writeStart = .ticks b → tm ≠ .ticks b →
      (Time.lt tm (.ticks b) = true ∨ ∃ x ∈ s.pll.wbuf, Time.lt x tm = false) →
      exec (.commit tm) s = .refused .commitOutOfOrder)

/-- START_WRITING: the span starts at `tm`, what was buffered is dropped. STOP_WRITING: outside write mode nothing; else
COMMIT, then write mode is left, with nothing buffered; out of order it is refused. -/
def Obligations.StartAndStopWritingResult : Prop :=
  ∀ (s : State) (tm : Time),
    exec (.startWriting tm) s = .next { s with
      outcome := .none, pll := { s.pll with writeStart := tm, wbuf := [] } } ∧
    (s.pll.writeStart = .never → exec (.stopWriting tm) s = .next (s.setOutcome .none)) ∧
    (s.pll.writeStart = tm →
      exec (.stopWriting tm) s = .next { s with outcome := .none, pll := { s.pll with writeStart := .never } }) ∧
    (∀ b : Nat, s.pll.writeStart = .ticks b → Time.lt (.ticks b) tm = true →
      (∀ x ∈ s.pll.wbuf, Time.lt x tm = true) →
      ∃ t c : State, exec (.stopWriting tm) s = .next t ∧ exec (.commit tm) s = .next c ∧
        t = { c with pll := { s.pll with writeStart := .never, wbuf := [] } }) ∧
    (∀ b : Nat, s.pll.writeStart = .ticks b → tm ≠ .ticks b →
      (Time.lt tm (.ticks b) = true ∨ ∃ x ∈ s.pll.wbuf, Time.lt x tm = false) →
      exec (.stopWriting tm) s = .refused .commitOutOfOrder)

/-- The round trip of 41_write_encoder R178, for every even period: cells written from a cell boundary and committed are
read back exactly by a PLL that stands on that boundary with that period. The track has no transition at the very end
of the span, which would belong to the last cell (40_pll R153). -/
def Obligations.WrittenCellsReadBack : Prop :=
  ∀ (par : Params) (m : Memory) (bits : List Bool) (half c : Nat) (p q p' : Pll),
    Memory.wf m = true → 1 ≤ half → p.period = 2 * half → p.writeStart = .never → p.ctime = .ticks c →
    writeAll par bits p = .ok p' →
    q.ctime = p.ctime → q.period = p.period → q.phaseAdjust = 0 →
    q.minPeriod ≤ q.period → q.period ≤ q.maxPeriod →
    m.has (c + bits.length * p.period) = false →
    p'.ctime = .ticks (c + bits.length * p.period) ∧
    readAll par (m.writeSpan c p'.ctime (tickTimes p'.wbuf)) bits.length q = bits

/-- ENCODE_MFM, ENCODE_FM and LOAD_RAW load the write shift register with the word and `live.data_reg` with its data
byte, and change nothing else. The six kinds of items a load state loads are made of them. -/
def Obligations.WordsAndItemsAreLoaded : Prop :=
  (∀ (s : State) (v : Byte), exec (.encodeMfm v) s = .next { s with
    outcome := .none, live := { s.live with wsr := mfmWord (s.live.dataReg.getLsbD 0) v, dataReg := v } }) ∧
  (∀ (s : State) (v : Byte), exec (.encodeFm v) s = .next { s with
    outcome := .none, live := { s.live with wsr := fmWord v, dataReg := v } }) ∧
  (∀ (s : State) (w : Word), exec (.loadRaw w) s = .next { s with
    outcome := .none, live := { s.live with wsr := w, dataReg := dataByte w } }) ∧
  ∀ s : State,
    (∀ v : Byte, loadItem (.fill v) s = loadByte s.cfg.mode v s) ∧
    (∀ w : Word, loadItem (.raw w) s = { s with live := { s.live with wsr := w, dataReg := dataByte w } }) ∧
    (∀ w : Word, loadItem (.rawSeed w) s =
      { s with live := { s.live with crc := s.par.crcInit, wsr := w, dataReg := dataByte w } }) ∧
    (s.cfg.tcDone = true → loadItem .data s = loadByte s.cfg.mode 0 s) ∧
    (s.cfg.tcDone = false → ∀ (b : Byte) (q : List Byte), s.fifo = b :: q →
      loadItem .data s = loadByte s.cfg.mode b { s with fifo := q }) ∧
    (s.cfg.tcDone = false → s.fifo = [] →
      loadItem .data s = loadByte s.cfg.mode 0 { s with live := { s.live with flags := s.live.flags ||| 4 } }) ∧
    loadItem .crc s = loadByte s.cfg.mode (s.live.crc.extractLsb' 8 8) s ∧
    loadItem .stop s = s

/-! The CRC. -/

/-- CRC_SEED, CRC_BIT and CRC_BYTE write `live.crc` and nothing else; the bit enters at the top of a register that shifts
left, divided by CRC_POLY, a byte's most significant bit first. A single flipped data bit anywhere in a field changes the
residue under the polynomial 0x1021, so a field that was good is no longer. -/
def Obligations.CrcOperationsResult : Prop :=
  (∀ s : State, exec .crcSeed s = .next { s with outcome := .none, live := { s.live with crc := s.par.crcInit } }) ∧
  (∀ (s : State) (b : Bool), exec (.crcBit b) s = .next { s with
    outcome := .none
    live := { s.live with
      crc := if s.live.crc.getLsbD 15 ^^ b then (s.live.crc <<< 1) ^^^ s.par.crcPoly else s.live.crc <<< 1 } }) ∧
  (∀ (s : State) (v : Byte), exec (.crcByte v) s = .next { s with
    outcome := .none
    live := { s.live with
      crc := [7, 6, 5, 4, 3, 2, 1, 0].foldl (fun c k => crcStep s.par.crcPoly c (v.getLsbD k)) s.live.crc } }) ∧
  ∀ (c : Word) (before after : List Bool) (b : Bool),
    crcBits 0x1021 c (before ++ b :: after) ≠ crcBits 0x1021 c (before ++ (!b) :: after)

/-- A register fed its own high byte shifts left by eight, so the two CRC bytes that a write takes from the high byte are
the CRC's high and low byte, and the register is zero after them; a CRC item loads the high byte both times. -/
def Obligations.CrcAbsorbsItsOwnBytes : Prop :=
  (∀ s : State, loadItem .crc s = loadByte s.cfg.mode (s.live.crc.extractLsb' 8 8) s) ∧
  ∀ poly c : Word, crcOfByte poly c (c.extractLsb' 8 8) = c <<< 8 ∧
    (c <<< 8).extractLsb' 8 8 = c.extractLsb' 0 8 ∧
    crcOfByte poly (crcOfByte poly c (c.extractLsb' 8 8)) (c.extractLsb' 0 8) = 0

/-! One cell. -/

/-- READ_ONE_BIT: SUSPEND changes nothing; a cell is shifted in, a data cell also into the data register and the CRC, and
the cells are counted. WRITE_ONE_BIT: SUSPEND leaves the live context as it is; a cell leaves the top of the write shift
register, a data cell enters the CRC, and the cells are counted; the write buffer's fault passes through. -/
def Obligations.OneCellResult : Prop :=
  (∀ (s : State) (limit : Time),
    (s.pll.getNextBit s.par (mediumNext s s.pll.ctime) limit = none →
      exec (.readOneBit limit) s = .next (s.setOutcome .suspend)) ∧
    (∀ (b : Bool) (p : Pll), s.pll.getNextBit s.par (mediumNext s s.pll.ctime) limit = some (b, p) →
      exec (.readOneBit limit) s = .next { s with
        outcome := .cont1
        pll := p
        live := { s.live with
          tm := p.ctime
          shiftReg := s.live.shiftReg <<< 1 ||| (if b then 1 else 0)
          dataReg := if s.live.bitCounter % 2 = 1 then s.live.dataReg <<< 1 ||| (if b then 1 else 0)
            else s.live.dataReg
          crc := if s.live.bitCounter % 2 = 1 then crcStep s.par.crcPoly s.live.crc b else s.live.crc
          bitCounter := (s.live.bitCounter + 1) % 2 ^ s.par.counterBits } })) ∧
  (∀ (s : State) (limit : Time) (top : Bool), top = s.live.wsr.getLsbD 15 →
    (∀ p : Pll, s.pll.writeNextBit s.par top limit = .ok (false, p) →
      exec (.writeOneBit limit) s = .next { s with outcome := .suspend, pll := p }) ∧
    (∀ p : Pll, s.pll.writeNextBit s.par top limit = .ok (true, p) →
      exec (.writeOneBit limit) s = .next { s with
        outcome := .cont1
        pll := p
        live := { s.live with
          tm := p.ctime
          crc := if s.live.bitCounter % 2 = 1 then crcStep s.par.crcPoly s.live.crc top else s.live.crc
          wsr := s.live.wsr <<< 1
          bitCounter := (s.live.bitCounter + 1) % 2 ^ s.par.counterBits } }) ∧
    (s.pll.writeNextBit s.par top limit = .error (.fault .writeBufferOverflow) →
      exec (.writeOneBit limit) s = .fault .writeBufferOverflow))

/-! The read states. Each row is one turn of LIVE_RUN's loop in its state, the reading of these rows that log 1 names. In each,
`c` is the state after the cell that the rule reads first, and a deferred transition is LIVE_DELAY's (`DefersTo`), ahead of
`now`, at it, or refused before it. -/

/-- SEARCH_ADDRESS_MARK_HEADER: a sync word seeds the CRC, restarts the cell count and moves the sequencer on, in MFM to
READ_HEADER_BLOCK_HEADER, in FM to READ_ID_BLOCK; any other cell changes nothing more. READ_HEADER_BLOCK_HEADER in MFM:
within a word nothing; a word before the last that is no sync word, or a mark byte that is not AM_ID, sends the sequencer
back to the search with the counters kept (log 44); AM_ID sends it on. In FM it is refused (log 1). -/
def Obligations.HeaderSearchResult : Prop :=
  (∀ (s : State) (limit : Time),
    RowNeedsState (.searchAddressMarkHeader limit) .searchAddressMarkHeader s ∧
    (s.live.state = .searchAddressMarkHeader → s.live.nextState = none →
      (readCell none limit s = none →
        exec (.searchAddressMarkHeader limit) s = .next (s.setOutcome .suspended)) ∧
      (∀ (c : State) (seed : Word), readCell none limit s = some c →
        seed = crcOfByte c.par.crcPoly c.par.crcInit (dataByte c.live.shiftReg) →
        (c.cfg.mode = .mfm → c.live.shiftReg = c.par.syncMfm →
          exec (.searchAddressMarkHeader limit) s = .next { c with
            outcome := .cont
            live := { c.live with crc := seed, bitCounter := 0, state := .readHeaderBlockHeader } }) ∧
        (c.cfg.mode = .fm → c.live.shiftReg = c.par.syncFmId →
          exec (.searchAddressMarkHeader limit) s = .next { c with
            outcome := .cont, live := { c.live with crc := seed, bitCounter := 0, state := .readIdBlock } }) ∧
        (¬(c.cfg.mode = .mfm ∧ c.live.shiftReg = c.par.syncMfm) →
          ¬(c.cfg.mode = .fm ∧ c.live.shiftReg = c.par.syncFmId) →
          exec (.searchAddressMarkHeader limit) s = .next (c.setOutcome .cont))))) ∧
  (∀ (s : State) (limit : Time),
    RowNeedsState (.readHeaderBlockHeader limit) .readHeaderBlockHeader s ∧
    (s.live.state = .readHeaderBlockHeader → s.live.nextState = none →
      (s.cfg.mode = .fm → exec (.readHeaderBlockHeader limit) s = .refused .headerStateInFm) ∧
      (s.cfg.mode = .mfm →
        (readCell none limit s = none →
          exec (.readHeaderBlockHeader limit) s = .next (s.setOutcome .suspended)) ∧
        (∀ c : State, readCell none limit s = some c →
          (c.live.bitCounter % 16 ≠ 0 → exec (.readHeaderBlockHeader limit) s = .next (c.setOutcome .cont)) ∧
          (c.live.bitCounter % 16 = 0 → c.live.bitCounter / 16 < c.par.mfmSyncCount →
            exec (.readHeaderBlockHeader limit) s = .next { c with
              outcome := .cont
              live := { c.live with
                state := if c.live.shiftReg = c.par.syncMfm then c.live.state else .searchAddressMarkHeader } }) ∧
          (c.live.bitCounter % 16 = 0 → c.par.mfmSyncCount ≤ c.live.bitCounter / 16 → c.live.dataReg = c.par.amId →
            exec (.readHeaderBlockHeader limit) s = .next { c with
              outcome := .cont, live := { c.live with bitCounter := 0, state := .readIdBlock } }) ∧
          (c.live.bitCounter % 16 = 0 → c.par.mfmSyncCount ≤ c.live.bitCounter / 16 → c.live.dataReg ≠ c.par.amId →
            exec (.readHeaderBlockHeader limit) s = .next { c with
              outcome := .cont, live := { c.live with state := .searchAddressMarkHeader } })))))

/-- READ_ID_BLOCK: every byte completed is stored at its place (log 11 for a place that is not one of the six); after the
sixth the transition to IDLE is deferred (log 1). -/
def Obligations.ReadIdResult : Prop :=
  ∀ (s : State) (limit : Time),
    RowNeedsState (.readIdBlock limit) .readIdBlock s ∧
    (s.live.state = .readIdBlock → s.live.nextState = none →
      (readCell none limit s = none → exec (.readIdBlock limit) s = .next (s.setOutcome .suspended)) ∧
      (∀ c : State, readCell none limit s = some c →
        (c.live.bitCounter % 16 ≠ 0 → exec (.readIdBlock limit) s = .next (c.setOutcome .cont)) ∧
        (c.live.bitCounter % 16 = 0 → ∀ (slot : Nat) (l : Live), slot = c.live.bitCounter / 16 - 1 →
          l = { c.live with idbuf := c.live.idbuf.put slot c.live.dataReg } →
          (slot ≠ 5 → exec (.readIdBlock limit) s = .next { c with outcome := .cont, live := l }) ∧
          (slot = 5 → DefersTo .delayed .idle l c (exec (.readIdBlock limit) s)))))

/-- SEARCH_ADDRESS_MARK_DATA: past the window the data mark is missing and the transition to IDLE is deferred, whatever
the cell completes; before the window opens nothing is looked for; in it a data mark seeds the CRC, restarts the count
and moves the sequencer on, a deleted FM mark also raising F_DAM_DELETED (log 1). -/
def Obligations.SearchDataResult : Prop :=
  ∀ (s : State) (limit : Time),
    RowNeedsState (.searchAddressMarkData limit) .searchAddressMarkData s ∧
    (s.live.state = .searchAddressMarkData → s.live.nextState = none →
      (readCell none limit s = none →
        exec (.searchAddressMarkData limit) s = .next (s.setOutcome .suspended)) ∧
      (∀ (c : State) (first last : Nat) (seed : Word), readCell none limit s = some c →
        first = c.par.damWindowOpen.get c.cfg.mode → last = first + c.par.damWindowLen.get c.cfg.mode →
        seed = crcOfByte c.par.crcPoly c.par.crcInit (dataByte c.live.shiftReg) →
        (last < c.live.bitCounter →
          DefersTo .delayed .idle { c.live with flags := c.live.flags ||| 2 } c
            (exec (.searchAddressMarkData limit) s)) ∧
        (c.live.bitCounter < first →
          exec (.searchAddressMarkData limit) s = .next (c.setOutcome .cont)) ∧
        (first ≤ c.live.bitCounter → c.live.bitCounter ≤ last →
          (c.cfg.mode = .mfm → c.live.shiftReg = c.par.syncMfm →
            exec (.searchAddressMarkData limit) s = .next { c with
              outcome := .cont
              live := { c.live with crc := seed, bitCounter := 0, state := .readDataBlockHeader } }) ∧
          (c.cfg.mode = .fm → c.live.shiftReg = c.par.fmDam →
            exec (.searchAddressMarkData limit) s = .next { c with
              outcome := .cont
              live := { c.live with crc := seed, bitCounter := 0, state := .readSectorData } }) ∧
          (c.cfg.mode = .fm → c.live.shiftReg = c.par.fmDdam → c.par.fmDdam ≠ c.par.fmDam →
            exec (.searchAddressMarkData limit) s = .next { c with
              outcome := .cont
              live := { c.live with
                crc := seed, bitCounter := 0, flags := c.live.flags ||| 1, state := .readSectorData } }) ∧
          (¬(c.cfg.mode = .mfm ∧ c.live.shiftReg = c.par.syncMfm) →
            ¬(c.cfg.mode = .fm ∧ (c.live.shiftReg = c.par.fmDam ∨ c.live.shiftReg = c.par.fmDdam)) →
            exec (.searchAddressMarkData limit) s = .next (c.setOutcome .cont)))))

/-- READ_DATA_BLOCK_HEADER in MFM: a data mark byte sends the sequencer to READ_SECTOR_DATA, a deleted one also raising
F_DAM_DELETED; a word that is no sync word, or any other mark byte, raises F_DATA_MARK_MISSING and defers the transition
to IDLE. In FM it is refused (log 1). -/
def Obligations.DataMarkResult : Prop :=
  ∀ (s : State) (limit : Time),
    RowNeedsState (.readDataBlockHeader limit) .readDataBlockHeader s ∧
    (s.live.state = .readDataBlockHeader → s.live.nextState = none →
      (s.cfg.mode = .fm → exec (.readDataBlockHeader limit) s = .refused .headerStateInFm) ∧
      (s.cfg.mode = .mfm →
        (readCell none limit s = none →
          exec (.readDataBlockHeader limit) s = .next (s.setOutcome .suspended)) ∧
        (∀ (c : State) (sync missing : Prop), readCell none limit s = some c →
          sync = (c.live.bitCounter / 16 < c.par.mfmSyncCount) →
          missing = (c.live.bitCounter % 16 = 0 ∧
            ((sync ∧ c.live.shiftReg ≠ c.par.syncMfm) ∨
              (¬sync ∧ c.live.dataReg ≠ c.par.amData ∧ c.live.dataReg ≠ c.par.amDdata))) →
          (c.live.bitCounter % 16 ≠ 0 ∨ (sync ∧ c.live.shiftReg = c.par.syncMfm) →
            exec (.readDataBlockHeader limit) s = .next (c.setOutcome .cont)) ∧
          (c.live.bitCounter % 16 = 0 → ¬sync → c.live.dataReg = c.par.amData →
            exec (.readDataBlockHeader limit) s = .next { c with
              outcome := .cont, live := { c.live with bitCounter := 0, state := .readSectorData } }) ∧
          (c.live.bitCounter % 16 = 0 → ¬sync → c.live.dataReg = c.par.amDdata → c.par.amDdata ≠ c.par.amData →
            exec (.readDataBlockHeader limit) s = .next { c with
              outcome := .cont
              live := { c.live with flags := c.live.flags ||| 1, bitCounter := 0, state := .readSectorData } }) ∧
          (missing → DefersTo .delayed .idle { c.live with flags := c.live.flags ||| 2 } c
            (exec (.readDataBlockHeader limit) s)))))

/-- READ_SECTOR_DATA: a data byte completed defers the hand-over, the second CRC byte the transition to IDLE; the first
CRC byte and every cell inside a byte change nothing more. READ_SECTOR_DATA_BYTE at a confirmed time: the byte goes to the
FIFO's tail, or nowhere after terminal count, and the checkpoint makes it permanent, in write mode with a commit; a full
FIFO is an overrun and the engine is idle at once. At any other time it is refused (log 1; log 11 for a cell count that
has wrapped; log 63 for a limit before that time). -/
def Obligations.SectorDataResult : Prop :=
  (∀ (s : State) (limit : Time),
    RowNeedsState (.readSectorData limit) .readSectorData s ∧
    (s.live.state = .readSectorData → s.live.nextState = none →
      (readCell none limit s = none → exec (.readSectorData limit) s = .next (s.setOutcome .suspended)) ∧
      (∀ c : State, readCell none limit s = some c →
        (c.live.bitCounter % 16 ≠ 0 → exec (.readSectorData limit) s = .next (c.setOutcome .cont)) ∧
        (c.live.bitCounter % 16 = 0 → ∀ slot : Nat, slot = c.live.bitCounter / 16 - 1 →
          (slot < c.cfg.sectorSize →
            DefersTo .delayed .readSectorDataByte c.live c (exec (.readSectorData limit) s)) ∧
          (slot = c.cfg.sectorSize + 1 → DefersTo .delayed .idle c.live c (exec (.readSectorData limit) s)) ∧
          (c.cfg.sectorSize ≤ slot → slot ≠ c.cfg.sectorSize + 1 →
            exec (.readSectorData limit) s = .next (c.setOutcome .cont)))))) ∧
  (∀ (s : State) (limit : Time),
    RowNeedsState (.readSectorDataByte limit) .readSectorDataByte s ∧
    (s.live.state = .readSectorDataByte → s.live.nextState = none →
      (s.live.tm ≠ .ticks s.now → exec (.readSectorDataByte limit) s = .refused .notConfirmed) ∧
      (s.live.tm = .ticks s.now →
        ∀ l e : Live, l = { s.live with state := .readSectorData } → e = { s.live with flags := s.live.flags ||| 4 } →
        (s.cfg.tcDone = true → CheckpointsAs { s with live := l } (exec (.readSectorDataByte limit) s)) ∧
        (s.cfg.tcDone = false → s.fifo.length < s.par.fifoSize →
          CheckpointsAs { s with live := l, fifo := s.fifo ++ [s.live.dataReg] }
            (exec (.readSectorDataByte limit) s)) ∧
        (s.cfg.tcDone = false → s.par.fifoSize ≤ s.fifo.length →
          DefersTo .delayed .idle e s (exec (.readSectorDataByte limit) s) ∧
          (s.pll.writeStart = .never → exec (.readSectorDataByte limit) s = .next { s with
            outcome := .delayed, live := arrived .idle e, snap := ⟨arrived .idle e, s.pll⟩ })))))

/-! The write states. -/

/-- WRITE_SECTOR_SKIP_GAP2: cells are read and ignored until GAP2_LEN bytes have passed; then the counters restart and the
turn to writing is deferred (log 1). -/
def Obligations.SkipGap2Result : Prop :=
  ∀ (s : State) (limit : Time),
    RowNeedsState (.writeSectorSkipGap2 limit) .writeSectorSkipGap2 s ∧
    (s.live.state = .writeSectorSkipGap2 → s.live.nextState = none →
      (readCell none limit s = none → exec (.writeSectorSkipGap2 limit) s = .next (s.setOutcome .suspended)) ∧
      (∀ c : State, readCell none limit s = some c →
        (c.live.bitCounter < c.par.gap2Len.get c.cfg.mode * 16 →
          exec (.writeSectorSkipGap2 limit) s = .next (c.setOutcome .cont)) ∧
        (c.par.gap2Len.get c.cfg.mode * 16 ≤ c.live.bitCounter →
          DefersTo .delayed .writeSectorData { c.live with bitCounter := 0, byteCounter := 0 } c
            (exec (.writeSectorSkipGap2 limit) s))))

/-- The load states WRITE_SECTOR_DATA, WRITE_TRACK_PRE_SECTORS, WRITE_TRACK_SECTOR and WRITE_TRACK_POST_SECTORS at a
confirmed time: the item is loaded, the cells counted from 0, the emit state entered, a checkpoint taken, which commits
the cells of the byte before. The first item of a sector or a track starts write mode at `live.tm`; the last of a sector
commits, leaves write mode and ends in IDLE. At any other time they are refused (log 1; log 43 for a pre-sector number
past its table; log 63 for a limit before that time). -/
def Obligations.LoadStatesResult : Prop :=
  (∀ (s : State) (limit : Time) (i : Instr) (st emit : LiveState) (item : Item) (starts : Bool) (f x : State) (l : Live),
    ((i = .writeSectorData limit ∧ st = .writeSectorData ∧ emit = .writeSectorDataByte ∧ starts = true ∧
        item = itemAt (sectorRuns s.par s.cfg) s.live.byteCounter ∧ item ≠ .stop) ∨
      (i = .writeTrackPreSectors limit ∧ st = .writeTrackPreSectors ∧ emit = .writeTrackPreSectorsByte ∧
        starts = true ∧ item = itemAt (preRuns s.par s.cfg.mode) s.live.byteCounter) ∨
      (i = .writeTrackSector limit ∧ st = .writeTrackSector ∧ emit = .writeTrackSectorByte ∧ starts = false ∧
        item = itemAt (formatRuns s.par s.cfg) (s.live.byteCounter % itemLen s.par s.cfg)) ∨
      (i = .writeTrackPostSectors limit ∧ st = .writeTrackPostSectors ∧ emit = .writeTrackPostSectorsByte ∧
        starts = false ∧ item = .fill (s.par.gapFill.get s.cfg.mode))) →
    f = (if starts = true ∧ s.live.byteCounter = 0 then
        { s with pll := { s.pll with writeStart := s.live.tm, wbuf := [] } } else s) →
    x = loadItem item f → l = { x.live with bitCounter := 0, state := emit } →
    RowNeedsState i st s ∧
    (s.live.state = st → s.live.nextState = none →
      (s.live.tm ≠ .ticks s.now → exec i s = .refused .notConfirmed) ∧
      (s.live.tm = .ticks s.now → CheckpointsAs { x with live := l } (exec i s)))) ∧
  (∀ (s : State) (limit : Time) (l : Live), s.live.state = .writeSectorData → s.live.nextState = none →
    itemAt (sectorRuns s.par s.cfg) s.live.byteCounter = .stop → l = arrived .idle s.live →
    (s.live.tm ≠ .ticks s.now → exec (.writeSectorData limit) s = .refused .notConfirmed) ∧
    (s.live.tm = .ticks s.now →
      (∀ p : Pll, p = { s.pll with writeStart := .never } →
        (s.pll.writeStart = .never ∨ s.pll.writeStart = .ticks s.now) →
        exec (.writeSectorData limit) s = .next { s with outcome := .delayed, pll := p, live := l, snap := ⟨l, p⟩ }) ∧
      (∀ w : State, exec (.stopWriting s.live.tm) s = .next w →
        exec (.writeSectorData limit) s = .next { w with outcome := .delayed, live := l, snap := ⟨l, w.pll⟩ }) ∧
      (∀ r : Refusal, exec (.stopWriting s.live.tm) s = .refused r → exec (.writeSectorData limit) s = .refused r)))

/-- The emit states WRITE_SECTOR_DATA_BYTE, WRITE_TRACK_PRE_SECTORS_BYTE, WRITE_TRACK_SECTOR_BYTE and
WRITE_TRACK_POST_SECTORS_BYTE: one cell is written; at the limit they suspend; the write buffer's fault passes through;
after sixteen cells the byte is counted and the load state that follows is deferred, the counter restarting where a part
of the track ends (log 1). -/
def Obligations.EmitStatesResult : Prop :=
  ∀ (s : State) (limit : Time) (i : Instr) (st : LiveState) (length : Option Nat) (again after : LiveState),
    ((i = .writeSectorDataByte limit ∧ st = .writeSectorDataByte ∧ length = none ∧ again = .writeSectorData) ∨
      (i = .writeTrackPreSectorsByte limit ∧ st = .writeTrackPreSectorsByte ∧
        length = some (preLen s.par s.cfg.mode) ∧ again = .writeTrackPreSectors ∧ after = .writeTrackSector) ∨
      (i = .writeTrackSectorByte limit ∧ st = .writeTrackSectorByte ∧
        length = some (itemLen s.par s.cfg * s.cfg.fmtSectors.toNat) ∧
        again = .writeTrackSector ∧ after = .writeTrackPostSectors) ∨
      (i = .writeTrackPostSectorsByte limit ∧ st = .writeTrackPostSectorsByte ∧ length = none ∧
        again = .writeTrackPostSectors)) →
    RowNeedsState i st s ∧
    (s.live.state = st → s.live.nextState = none →
      (writeCell limit s = .error (.fault .writeBufferOverflow) → exec i s = .fault .writeBufferOverflow) ∧
      (∀ c : State, writeCell limit s = .ok (false, c) → exec i s = .next (c.setOutcome .suspended)) ∧
      (∀ c : State, writeCell limit s = .ok (true, c) →
        (c.live.bitCounter < 16 → exec i s = .next (c.setOutcome .cont)) ∧
        (16 ≤ c.live.bitCounter → ∀ n : Nat, n = (c.live.byteCounter + 1) % 2 ^ c.par.counterBits →
          DefersTo .delayed (if length = some n then after else again)
            { c.live with byteCounter := if length = some n then 0 else n } c (exec i s))))

/-- The items of a sector write by their number k, up to END: sync run, mark, data, CRC, gap. The items before the first
sector of a format, of one formatted sector, and the lengths PRE_LEN and ITEM_LEN. With three sync words in MFM. -/
def Obligations.WriteTablesResult : Prop :=
  ∀ (par : Params) (cfg : Cfg) (k len n post g4 g1 g2 g3 : Nat) (gap : Byte), par.mfmSyncCount = 3 →
    len = par.syncLen.get cfg.mode → n = cfg.sectorSize → post = par.postGapLen → gap = par.gapFill.get cfg.mode →
    g4 = par.gap4aLen.get cfg.mode → g1 = par.gap1Len.get cfg.mode → g2 = par.gap2Len.get cfg.mode →
    g3 = cfg.fmtGap3.toNat →
    (cfg.mode = .mfm →
      (k ≤ len + 6 + n + post → itemAt (sectorRuns par cfg) k =
        if k < len then .fill 0
        else if k = len then .rawSeed par.syncMfm
        else if k = len + 1 ∨ k = len + 2 then .raw par.syncMfm
        else if k = len + 3 then .fill (if cfg.damDeleted then par.amDdata else par.amData)
        else if k < len + 4 + n then .data
        else if k < len + 6 + n then .crc
        else if k < len + 6 + n + post then .fill gap
        else .stop) ∧
      preLen par .mfm = g4 + len + 4 + g1 ∧
      (k < preLen par .mfm → itemAt (preRuns par .mfm) k =
        if k < g4 then .fill gap
        else if k < g4 + len then .fill 0
        else if k < g4 + len + 3 then .raw par.mfmIam
        else if k = g4 + len + 3 then .fill par.amIndex
        else .fill gap) ∧
      itemLen par cfg = 2 * len + 16 + g2 + n + g3 ∧
      (k < itemLen par cfg → itemAt (formatRuns par cfg) k =
        if k < len then .fill 0
        else if k = len then .rawSeed par.syncMfm
        else if k < len + 3 then .raw par.syncMfm
        else if k = len + 3 then .fill par.amId
        else if k < len + 8 then .data
        else if k < len + 10 then .crc
        else if k < len + 10 + g2 then .fill gap
        else if k < 2 * len + 10 + g2 then .fill 0
        else if k = 2 * len + 10 + g2 then .rawSeed par.syncMfm
        else if k < 2 * len + 13 + g2 then .raw par.syncMfm
        else if k = 2 * len + 13 + g2 then .fill par.amData
        else if k < 2 * len + 14 + g2 + n then .fill cfg.fmtFill
        else if k < 2 * len + 16 + g2 + n then .crc
        else .fill gap)) ∧
    (cfg.mode = .fm →
      (k ≤ len + 3 + n + post → itemAt (sectorRuns par cfg) k =
        if k < len then .fill 0
        else if k = len then .rawSeed (if cfg.damDeleted then par.fmDdam else par.fmDam)
        else if k < len + 1 + n then .data
        else if k < len + 3 + n then .crc
        else if k < len + 3 + n + post then .fill gap
        else .stop) ∧
      preLen par .fm = g4 + len + 1 + g1 ∧
      (k < preLen par .fm → itemAt (preRuns par .fm) k =
        if k < g4 then .fill gap
        else if k < g4 + len then .fill 0
        else if k = g4 + len then .raw par.fmIam
        else .fill gap) ∧
      itemLen par cfg = 2 * len + 10 + g2 + n + g3 ∧
      (k < itemLen par cfg → itemAt (formatRuns par cfg) k =
        if k < len then .fill 0
        else if k = len then .rawSeed par.syncFmId
        else if k < len + 5 then .data
        else if k < len + 7 then .crc
        else if k < len + 7 + g2 then .fill gap
        else if k < 2 * len + 7 + g2 then .fill 0
        else if k = 2 * len + 7 + g2 then .rawSeed par.fmDam
        else if k < 2 * len + 8 + g2 + n then .fill cfg.fmtFill
        else if k < 2 * len + 10 + g2 + n then .crc
        else .fill gap))

/-! Live control. -/

/-- LIVE_START: refused while a drive is live, for a drive that does not exist, for a state that is no entry state, for a
format without sectors and for a cell too short; otherwise the live context and the PLL are made anew and a checkpoint is
taken. -/
def Obligations.LiveStartResult : Prop :=
  ∀ (s : State) (d : Nat) (st : LiveState),
    (s.live.drive ≠ none → exec (.liveStart d st) s = .refused .startWhileLive) ∧
    (s.live.drive = none → s.par.ndrives ≤ d → exec (.liveStart d st) s = .refused .driveOutOfRange) ∧
    (s.live.drive = none → d < s.par.ndrives →
      (st ≠ .searchAddressMarkHeader → st ≠ .searchAddressMarkData → st ≠ .writeSectorSkipGap2 →
        st ≠ .writeTrackPreSectors → exec (.liveStart d st) s = .refused .notAnEntryState) ∧
      (st = .writeTrackPreSectors → s.cfg.fmtSectors = 0 →
        exec (.liveStart d st) s = .refused .formatWithoutSectors) ∧
      ((st = .searchAddressMarkHeader ∨ st = .searchAddressMarkData ∨ st = .writeSectorSkipGap2 ∨
          (st = .writeTrackPreSectors ∧ s.cfg.fmtSectors ≠ 0)) →
        (s.cfg.cellNominal < 2 → exec (.liveStart d st) s = .refused .clockPeriodTooShort) ∧
        (2 ≤ s.cfg.cellNominal → ∀ (l : Live) (p : Pll),
          l = { shiftReg := 0, wsr := 0, crc := 0xFFFF, bitCounter := 0, byteCounter := 0, dataReg := 0,
                idbuf := ⟨0, 0, 0, 0, 0, 0⟩, state := st, nextState := none, tm := .ticks s.now, drive := some d,
                flags := 0 } →
          p = (s.pll.setClock s.par s.cfg.cellNominal).restart (.ticks s.now) →
          exec (.liveStart d st) s = .next { s with outcome := .none, live := l, pll := p, snap := ⟨l, p⟩ })))

/-- LIVE_RUN in IDLE, or with a deferred transition pending, runs nothing, and so does the state row IDLE, whatever state
is live (log 1). With limit NEVER it is LIVE_RUN to the next index pulse, or, with none ahead, to the safety net, for
which a wake-up is requested. With a finite limit it is a loop: one turn of the rule of `live.state` (the turn a state row
makes), and then, after CONT or a delayed transition made on the spot, LIVE_RUN from the state reached, IDLE ending it;
any other outcome, and a stop, is the run's own. The PLL's cells have positive length (log 12). A state that runs at a
confirmed time makes its turn whatever the limit (log 63). -/
def Obligations.LiveRunResult : Prop :=
  (∀ (s : State) (limit : Time),
    exec (.idle limit) s = .next (s.setOutcome .notRunning) ∧
    (s.live.state = .idle ∨ s.live.nextState ≠ none →
      exec (.liveRun limit) s = .next (s.setOutcome .notRunning)) ∧
    (∀ n : Nat, mediumNextIndex s s.now = .ticks n → exec (.liveRun .never) s = exec (.liveRun (.ticks n)) s) ∧
    (mediumNextIndex s s.now = .never → s.live.state ≠ .idle → s.live.nextState = none →
      exec (.liveRun .never) s = exec (.liveRun (.ticks (s.now + s.par.safetyNet)))
        { s with wakeups := Memory.insert s.wakeups (s.now + s.par.safetyNet) })) ∧
  ∀ (s : State) (limit : Time) (n c : Nat), limit = .ticks n → s.live.state ≠ .idle → s.live.nextState = none →
    PllSound s.pll → s.pll.ctime = .ticks c →
    exec (stateRow limit s.live.state) s = finish (withOutcome (stateRule s.live.state none limit s)) ∧
    (∀ (t : State) (o : OpOutcome), stateRule s.live.state none limit s = .ok (t, o) → ∀ again : Prop,
      again = (o = .cont ∨ o = .delayed ∧ t.live.nextState = none) →
      (again → t.live.state ≠ .idle → exec (.liveRun limit) s = exec (.liveRun limit) t) ∧
      (again → t.live.state = .idle → exec (.liveRun limit) s = .next (t.setOutcome .idle)) ∧
      (¬again → exec (.liveRun limit) s = .next (t.setOutcome o))) ∧
    (∀ e : Stop, stateRule s.live.state none limit s = .error e → exec (.liveRun limit) s = finish (.error e))

/-- LIVE_RUN ends, with a PLL whose cells have positive length and a time not before `now`: from the header search and
inside an ID field, from the states of a data read, from the gap before a write, and from the emit states with room in
the write buffer for the cells of the word. It ends suspended, the next cell ending after the limit, or with a
transition of that path deferred at the time reached, whatever the medium holds. It touches no FIFO, no medium and no
snapshot. -/
def Obligations.RunsEnd : Prop :=
  ∀ (s : State) (limit c : Nat) (due : List LiveState) (emits : Bool), PllSound s.pll →
    s.pll.ctime = .ticks c → s.now ≤ c → s.live.nextState = none →
    (emits = false ∧
        ((s.live.state = .searchAddressMarkHeader ∧ due = [.idle]) ∨
          (s.live.state = .readHeaderBlockHeader ∧ s.cfg.mode = .mfm ∧ due = [.idle]) ∨
          (s.live.state = .readIdBlock ∧ due = [.idle]) ∨
          (s.live.state = .searchAddressMarkData ∧ due = [.idle, .readSectorDataByte]) ∨
          (s.live.state = .readDataBlockHeader ∧ s.cfg.mode = .mfm ∧ due = [.idle, .readSectorDataByte]) ∨
          (s.live.state = .readSectorData ∧ due = [.idle, .readSectorDataByte]) ∨
          (s.live.state = .writeSectorSkipGap2 ∧ due = [.writeSectorData])) ∨
      emits = true ∧ s.live.bitCounter ≤ 16 ∧ s.pll.wbuf.length + 16 ≤ s.par.wbufLen ∧ 5 ≤ s.par.counterBits ∧
        ((s.live.state = .writeSectorDataByte ∧ due = [.writeSectorData]) ∨
          (s.live.state = .writeTrackPreSectorsByte ∧ due = [.writeTrackPreSectors, .writeTrackSector]) ∨
          (s.live.state = .writeTrackSectorByte ∧ due = [.writeTrackSector, .writeTrackPostSectors]) ∨
          (s.live.state = .writeTrackPostSectorsByte ∧ due = [.writeTrackPostSectors]))) →
    ∃ (t : State) (e : Nat), exec (.liveRun (.ticks limit)) s = .next t ∧ t.pll.ctime = .ticks e ∧
      (t.outcome = .suspended ∧ t.live.nextState = none ∧ t.wakeups = s.wakeups ∧
          (emits = false → Time.lt (.ticks limit) t.pll.cellEnd = true) ∧
          (emits = true → limit < e + t.pll.period) ∨
        t.outcome = .delayed ∧ (∃ st ∈ due, t.live.nextState = some st) ∧ t.wakeups = Memory.insert s.wakeups e) ∧
      c ≤ e ∧ (c < e → e ≤ limit) ∧
      t.fifo = s.fifo ∧ t.drives = s.drives ∧ t.snap = s.snap ∧ t.cfg = s.cfg ∧ t.now = s.now ∧ t.ctrl = s.ctrl ∧
      t.inbox = s.inbox

/-- CHECKPOINT commits what a live drive has written up to `live.tm` and copies (live, pll), outside write mode it only
copies, and it is refused ahead of `now` (log 39 for a `live.tm` of NEVER); ROLLBACK restores the copy and touches neither
the medium nor the FIFO, and a second ROLLBACK is the same as one. Determinism: after a run from a checkpoint that reached
no confirmed time of its own, ROLLBACK and a run to the same limit reach the same live context and PLL, with the same
outcome. -/
def Obligations.CheckpointAndRollbackResult : Prop :=
  (∀ s : State,
    (∀ n : Nat, s.live.tm = .ticks n → s.now < n → exec .checkpoint s = .refused .checkpointAhead) ∧
    ((s.live.tm = .never ∨ ∃ n : Nat, s.live.tm = .ticks n ∧ n ≤ s.now) →
      (s.live.drive = none ∨ s.pll.writeStart = .never →
        exec .checkpoint s = .next { s with outcome := .none, snap := ⟨s.live, s.pll⟩ }) ∧
      (s.live.drive ≠ none → ∀ c : State, exec (.commit s.live.tm) s = .next c →
        exec .checkpoint s = .next { c with snap := ⟨c.live, c.pll⟩ })) ∧
    exec .rollback s = .next { s with outcome := .none, live := s.snap.live, pll := s.snap.pll } ∧
    (∀ t : State, exec .rollback s = .next t → exec .rollback t = .next t)) ∧
  ∀ (s t : State) (limit : Time), s.snap = ⟨s.live, s.pll⟩ →
    exec (.liveRun limit) s = .next t → t.snap = s.snap → t.drives = s.drives → t.fifo = s.fifo →
    ∃ r u : State, exec .rollback t = .next r ∧ r.live = s.live ∧ r.pll = s.pll ∧
      exec (.liveRun limit) r = .next u ∧ u.live = t.live ∧ u.pll = t.pll ∧ u.outcome = t.outcome ∧
      u.drives = t.drives ∧ u.fifo = t.fifo

/-- LIVE_DELAY: a wake-up is requested ahead of `now`; at `now` what was written is committed and the transition made on
the spot with its checkpoint, a transition to IDLE leaving write mode and dropping the live mark; before `now` it is
refused. -/
def Obligations.LiveDelayResult : Prop :=
  ∀ (s : State) (st : LiveState),
    DefersTo .none st s.live s (exec (.liveDelay st) s) ∧
    (s.live.tm = .ticks s.now → s.pll.writeStart = .never →
      exec (.liveDelay st) s = .next { s with
        outcome := .none, live := arrived st s.live, snap := ⟨arrived st s.live, s.pll⟩ })

/-- LIVE_SYNC: nothing when not live; with everything confirmed what was written is committed, as the byte just written in
write mode, a due transition is made and a checkpoint taken, and reaching IDLE is the block's trap entry, which keeps
every data register; ahead of `now` the engine is rolled back and run again to `now`, and what it wrote by then
committed. -/
def Obligations.LiveSyncResult : Prop :=
  ∀ s : State,
    (s.live.tm = .never → exec .liveSync s = .next (s.setOutcome .none)) ∧
    (∀ (n : Nat) (st : LiveState) (l : Live), s.live.tm = .ticks n → n ≤ s.now →
      st = s.live.nextState.getD s.live.state → l = arrived st s.live →
      (s.pll.writeStart = .never →
        exec .liveSync s = .next { s with outcome := .none, live := l, snap := ⟨l, s.pll⟩ }) ∧
      (∀ (w : State) (p : Pll), exec (.commit (.ticks n)) s = .next w →
        p = (if st = .idle then { w.pll with writeStart := .never } else w.pll) →
        exec .liveSync s = .next { w with outcome := .none, live := l, pll := p, snap := ⟨l, p⟩ })) ∧
    (∀ (n : Nat) (r u w : State), s.live.tm = .ticks n → s.now < n → exec .rollback s = .next r →
      exec (.liveRun (.ticks s.now)) r = .next u → (∀ m : Nat, u.live.tm = .ticks m → m ≤ u.now) →
      exec (.commit u.live.tm) u = .next w →
      ∀ l : Live, l = { u.live with nextState := none } →
      exec .liveSync s = .next { w with outcome := .none, live := l, snap := ⟨l, w.pll⟩ })

/-- LIVE_ABORT: ahead of `now` the engine is first rolled back and run again to `now`. Then, with no drive live or
outside write mode, the live mark and the deferred transition drop, the engine is idle, every data register stays and a
checkpoint is taken; in write mode what was written is committed first and write mode is left (log 39 for a `live.tm` of
NEVER). `u` is the state from which this is done. -/
def Obligations.LiveAbortResult : Prop :=
  ∀ (s u : State) (l : Live), l = arrived .idle u.live →
    ((s.live.tm = .never ∨ ∃ n : Nat, s.live.tm = .ticks n ∧ n ≤ s.now) ∧ u = s ∨
      (∃ (n : Nat) (r : State), s.live.tm = .ticks n ∧ s.now < n ∧ exec .rollback s = .next r ∧
        exec (.liveRun (.ticks s.now)) r = .next u)) →
    (u.live.drive = none ∨ u.pll.writeStart = .never →
      exec .liveAbort s = .next { u with outcome := .none, live := l, snap := ⟨l, u.pll⟩ }) ∧
    (∀ w : State, u.live.drive ≠ none → exec (.stopWriting u.live.tm) u = .next w →
      exec .liveAbort s = .next { w with outcome := .none, live := l, snap := ⟨l, w.pll⟩ })

/-- The reserved codes, 0x00 and 0x17 to 0xFF of the operations and 17 and above of the states, decode to themselves with
whatever operands, and are refused. -/
def Obligations.ReservedCodesRefused : Prop :=
  ∀ (s : State) (code : Byte) (args : List Time),
    (code = 0 ∨ 0x17 ≤ code.toNat → decode ⟨.op, [code], args⟩ = .ok (.reservedOp code)) ∧
    (17 ≤ code.toNat → decode ⟨.state, [code], args⟩ = .ok (.reservedState code)) ∧
    exec (.reservedOp code) s = .refused (.reservedOperation code) ∧
    exec (.reservedState code) s = .refused (.reservedStateCode code)

/-! Flags and words. -/

/-- Raising a condition in a running engine sets its bit of `live.flags` and does nothing more; in IDLE, or with a
deferred transition pending, a flag row does nothing (the flag rows are so read by log 3). -/
def Obligations.FlagsAreRaised : Prop :=
  ∀ (s : State) (i : Instr) (f : BitVec 3),
    (i = .fDamDeleted ∧ f = 1 ∨ i = .fDataMarkMissing ∧ f = 2 ∨ i = .fOverrun ∧ f = 4) →
    (s.live.state ≠ .idle → s.live.nextState = none →
      exec i s = .next { s with outcome := .none, live := { s.live with flags := s.live.flags ||| f } }) ∧
    (s.live.state = .idle ∨ s.live.nextState ≠ none → exec i s = .next (s.setOutcome .none))

/-- A word that passes under the head inside an ID field is one byte, whatever its clock cells: for RAW_WORD, MFM_BYTE,
FM_BYTE, SYNC_MFM, SYNC_FM_ID, FM_DAM, FM_DDAM, MFM_IAM, FM_IAM, AM_ID, AM_DATA, AM_DDATA and AM_INDEX alike, its data
byte is stored at its place and runs through the CRC, the sixteen cells are counted and timed by the PLL, no flag is
raised and nothing outside (live, pll) changes; after the sixth byte the transition to IDLE is deferred (log 2; log 38
for the word a mark row carries). -/
def Obligations.WordIsOneByte : Prop :=
  ∀ (s : State) (i : Instr) (w : Word) (k : Nat) (p : Pll) (l : Live), wordOf s i = some w →
    s.live.state = .readIdBlock → s.live.nextState = none → s.live.bitCounter = 16 * k → k < 6 →
    7 ≤ s.par.counterBits → p = passPll s.par (cellsOf w) s.pll →
    l = { s.live with
      shiftReg := w
      dataReg := dataByte w
      crc := crcOfByte s.par.crcPoly s.live.crc (dataByte w)
      bitCounter := 16 * (k + 1)
      idbuf := s.live.idbuf.put k (dataByte w)
      tm := p.ctime } →
    (k < 5 → exec i s = .next { s with outcome := .none, pll := p, live := l }) ∧
    (k = 5 → DefersTo .none .idle l { s with pll := p, live := l } (exec i s))

/-- The marks are recognised, with the reference parameters: with an empty shift register, SYNC_MFM in the MFM header
search opens a header and SYNC_FM_ID in the FM header search an ID field; SYNC_MFM in the MFM data search opens a data
header and FM_DAM and FM_DDAM in the FM data search a data field, when the last cell of the word lies in the window, the
deleted one raising F_DAM_DELETED; the second and third SYNC_MFM keep the header states. A word under an engine that
reads no cells, in IDLE, READ_SECTOR_DATA_BYTE or a write state, or with a transition pending, is not seen (log 2). -/
def Obligations.MarksAreRecognised : Prop :=
  (∀ s : State, s.par = Params.reference → s.live.nextState = none → s.live.shiftReg = 0 →
    (s.live.state = .searchAddressMarkHeader →
      (s.cfg.mode = .mfm → ∃ t, exec .syncMfm s = .next t ∧ t.live.state = .readHeaderBlockHeader ∧
        t.live.bitCounter = 0 ∧ t.live.crc = 0x443B ∧ t.live.flags = s.live.flags) ∧
      (s.cfg.mode = .fm → ∃ t, exec .syncFmId s = .next t ∧ t.live.state = .readIdBlock ∧
        t.live.bitCounter = 0 ∧ t.live.crc = 0xEF21 ∧ t.live.flags = s.live.flags)) ∧
    (s.live.state = .searchAddressMarkData →
      (s.cfg.mode = .mfm → 336 ≤ s.live.bitCounter → s.live.bitCounter ≤ 784 →
        ∃ t, exec .syncMfm s = .next t ∧ t.live.state = .readDataBlockHeader ∧ t.live.bitCounter = 0 ∧
          t.live.crc = 0x443B ∧ t.live.flags = s.live.flags) ∧
      (s.cfg.mode = .fm → 160 ≤ s.live.bitCounter → s.live.bitCounter ≤ 336 →
        (∃ t, exec .fmDam s = .next t ∧ t.live.state = .readSectorData ∧ t.live.bitCounter = 0 ∧
          t.live.crc = 0xBF84 ∧ t.live.flags = s.live.flags) ∧
        (∃ t, exec .fmDdam s = .next t ∧ t.live.state = .readSectorData ∧ t.live.bitCounter = 0 ∧
          t.live.crc = 0x8FE7 ∧ t.live.flags = s.live.flags ||| 1)))) ∧
  (∀ (s : State) (k : Nat), s.par = Params.reference → s.cfg.mode = .mfm → s.live.nextState = none →
    (s.live.state = .readHeaderBlockHeader ∨ s.live.state = .readDataBlockHeader) →
    s.live.bitCounter = 16 * k → k < 2 →
    ∃ t, exec .syncMfm s = .next t ∧ t.live.state = s.live.state ∧ t.live.bitCounter = 16 * (k + 1) ∧
      t.live.nextState = none ∧ t.live.flags = s.live.flags) ∧
  (∀ (s : State) (i : Instr) (w : Word), wordOf s i = some w →
    (s.live.nextState ≠ none ∨
      s.live.state ≠ .searchAddressMarkHeader ∧ s.live.state ≠ .readHeaderBlockHeader ∧
        s.live.state ≠ .readIdBlock ∧ s.live.state ≠ .searchAddressMarkData ∧
        s.live.state ≠ .readDataBlockHeader ∧ s.live.state ≠ .readSectorData ∧
        s.live.state ≠ .writeSectorSkipGap2) →
    exec i s = .next (s.setOutcome .none))

/-- A whole MFM ID field: three sync words, the mark byte AM_ID and six bytes, MFM-encoded one after the other, pass under
an engine that searches for a header, each cell with its transition at the cell's center (log 2): the ID buffer holds the
six bytes, the residue is the CRC of the whole field, so zero when the last two bytes are the CRC of what went before,
and the transition to IDLE is deferred. -/
def Obligations.IdFieldIsCaptured : Prop :=
  ∀ (s : State) (c h r n hi lo : Byte) (start : Nat), s.par = Params.reference → s.cfg.mode = .mfm →
    s.live.state = .searchAddressMarkHeader → s.live.nextState = none → s.live.shiftReg = 0 →
    PllSound s.pll → s.pll.ctime = .ticks start → s.now ≤ start →
    ∃ t : State,
      passCells ([0x4489, 0x4489, 0x4489, mfmWord true 0xFE, mfmWord false c, mfmWord (c.getLsbD 0) h,
        mfmWord (h.getLsbD 0) r, mfmWord (r.getLsbD 0) n, mfmWord (n.getLsbD 0) hi,
        mfmWord (hi.getLsbD 0) lo].flatMap cellsOf) s = .ok t ∧
      t.live.idbuf = ⟨c, h, r, n, hi, lo⟩ ∧
      t.live.crc = crcBits 0x1021 0xFFFF ([0xA1, 0xA1, 0xA1, 0xFE, c, h, r, n, hi, lo].flatMap bitsOf) ∧
      t.live.state = .readIdBlock ∧ t.live.nextState = some .idle ∧ t.live.flags = s.live.flags ∧
      t.fifo = s.fifo ∧ t.drives = s.drives

/-! Host commands. In these statements `x` is the state after the clearing of `cfg.tc_done` with which every command
begins (46_command_engine R297); ConfigWriteResult says what that is when a drive is live. -/

/-- A host command outside the COMMAND phase, or while the controller is held in reset, is ignored: nothing changes
(log 29). -/
def Obligations.CommandsOutsideCommandPhaseIgnored : Prop :=
  ∀ (s : State) (i : Instr), isHostCommand i = true → (s.ctrl.phase ≠ .command ∨ heldInReset s = true) →
    exec i s = .next s

/-- SPECIFY, CONFIGURE and LOCK store what they carry and change nothing else of the machine; LOCK's one result byte is
the flag in bit 4, the other bits 0 (log 57). SENSE DRIVE STATUS returns ST3 with the drive's signals (log 48), the head
and the unit of its second byte (log 51); VERSION and DUMP REG return one and ten bytes, whose values the spec does not
give (log 25). Each asserts INTRQ at its completion (log 41), and none of them touches the engine, the FIFO or a drive.
-/
def Obligations.AnsweringCommandsResult : Prop :=
  ∀ (s x : State) (flags : BitVec 3) (hu : Byte), s.ctrl.phase = .command → heldInReset s = false →
    10 ≤ s.par.resBufLen → x = writeCfg { s.cfg with tcDone := false } s →
    (∀ b1 b2 : Byte, exec (.specify flags b1 b2) s = .next { x with
      outcome := .none
      ctrl := { s.ctrl with tc := false, cmdBuf := [], resBuf := [], spec1 := b1, spec2 := b2, intrq := true } }) ∧
    (∀ b1 b2 b3 : Byte, exec (.configure flags b1 b2 b3) s = .next { x with
      outcome := .none
      ctrl := { s.ctrl with
        tc := false, cmdBuf := [], resBuf := [], conf1 := b1, conf2 := b2, conf3 := b3, intrq := true } }) ∧
    exec (.lock flags) s = .next { x with
      outcome := .none
      ctrl := { s.ctrl with
        phase := .result
        tc := false
        cmdBuf := []
        lock := flags.getLsbD 2
        resBuf := [if flags.getLsbD 2 then 0x10 else 0]
        intrq := true
        job := { Job.empty with kind := .other } } } ∧
    (∃ (t : State) (st3 : Byte) (m : Medium), m = (s.drive (hu.toNat % 4)).med ∧
      exec (.senseDriveStatus flags hu) s = .next t ∧
      t = { x with
        outcome := .none
        ctrl := { s.ctrl with
          phase := .result, tc := false, cmdBuf := [], resBuf := [st3], st3 := st3, intrq := true
          job := { Job.empty with kind := .other } } } ∧
      st3.getLsbD 7 = false ∧ st3.getLsbD 6 = m.wp ∧ st3.getLsbD 5 = m.ready ∧ st3.getLsbD 4 = m.track0 ∧
      st3.getLsbD 3 = m.side ∧ st3.getLsbD 2 = hu.getLsbD 2 ∧ st3.getLsbD 1 = hu.getLsbD 1 ∧
      st3.getLsbD 0 = hu.getLsbD 0) ∧
    (∀ (i : Instr) (n : Nat), (i = .version flags ∧ n = 1 ∨ i = .dumpReg flags ∧ n = 10) →
      ∃ (t : State) (bytes : List Byte), bytes.length = n ∧ exec i s = .next t ∧
        t = { x with
          outcome := .none
          freeCount := x.freeCount + n
          ctrl := { s.ctrl with
            phase := .result, tc := false, cmdBuf := [], resBuf := bytes, intrq := true
            job := { Job.empty with kind := .other } } })

/-- SENSE INTERRUPT STATUS: the first pending drive's ST0 and cylinder are returned, that drive is no longer pending and
has it as its last reported ST0, the others keep their pending status, and INTRQ is asserted after it exactly while one
is left; with none pending ST0 has its top two bits set, the second byte is not given, and INTRQ is cleared (log 22). -/
def Obligations.SenseInterruptResult : Prop :=
  ∀ (s x : State) (flags : BitVec 3), s.ctrl.phase = .command → heldInReset s = false → 2 ≤ s.par.resBufLen →
    x = writeCfg { s.cfg with tcDone := false } s →
    (∀ (u : Nat) (st0 : Byte), u < s.drives.length → (s.drive u).pending = some st0 →
      (∀ v : Nat, v < u → (s.drive v).pending = none) →
      ∃ t : State, exec (.senseInterruptStatus flags) s = .next t ∧
        t.ctrl.phase = .result ∧ t.ctrl.resBuf = [st0, (s.drive u).pcn] ∧ t.ctrl.st0 = st0 ∧
        t.drive u = { s.drive u with pending := none, st0 := st0 } ∧ (∀ v : Nat, v ≠ u → t.drive v = s.drive v) ∧
        (t.ctrl.intrq = true ↔ ∃ d ∈ t.drives, d.pending ≠ none) ∧
        t = { x with outcome := .none, ctrl := t.ctrl, drives := t.drives }) ∧
    ((∀ d ∈ s.drives, d.pending = none) →
      ∃ (t : State) (b : Byte), exec (.senseInterruptStatus flags) s = .next t ∧
        t = { x with
          outcome := .none
          freeCount := x.freeCount + 1
          ctrl := { s.ctrl with
            phase := .result, tc := false, cmdBuf := [], resBuf := [0xC0, b], st0 := 0xC0, intrq := false
            job := { Job.empty with kind := .senseInterrupt } } })

/-- RECALIBRATE and SEEK: a drive that is not ready ends them at once with an abnormal, not-ready status pending; on a
ready drive, at track 0, or at the target cylinder, they complete with the seek-end bit and the unit in a pending ST0,
no retry consumed and no pulse sent, and INTRQ; otherwise one pulse is sent toward the target and the step time is
awaited. The controller is back in COMMAND and the engine is not touched. A drive that still seeks ends that seek first,
with an abnormal seek-end status pending and INTRQ, which the new command's own status replaces. When the step time is
over the same is done again, for RECALIBRATE with one retry more and, past the bound, an equipment check, which a SEEK
never ends in, the ready line no longer looked at (log 20; the unit and the target in their bytes log 51; a unit of no drive log 61; the sub_state log
53; HD of the status and an earlier one log 54). -/
def Obligations.SeekCommandsResult : Prop :=
  (∀ (s x : State) (flags : BitVec 3) (hu ncn : Byte) (u : Nat) (i : Instr) (main : MainState) (goal : Byte),
    s.ctrl.phase = .command → heldInReset s = false → u = hu.toNat % 4 → u < s.drives.length →
    x = writeCfg { s.cfg with tcDone := false } s →
    (i = .recalibrate flags hu ∧ main = .recalibrate ∧ goal = 0 ∨ i = .seek flags hu ncn ∧ main = .seek ∧ goal = ncn) →
    ∃ (t : State) (cut : Bool), cut = ((s.drive u).mainState == .seek || (s.drive u).mainState == .recalibrate) ∧
      exec i s = .next t ∧ t.ctrl.phase = .command ∧
      t = { x with outcome := .none, ctrl := t.ctrl, drives := t.drives } ∧
      (∀ v : Nat, v ≠ u → t.drive v = s.drive v) ∧
      ((u < s.par.ndrives → (s.drive u).med.ready = false) →
        t.drive u = { s.drive u with
          mainState := .idle, subState := .commandDone, pending := some (0x48 ||| BitVec.ofNat 8 u), stepAt := none } ∧
        t.ctrl.intrq = true) ∧
      (u < s.par.ndrives → (s.drive u).med.ready = true → ∀ d : Drive,
        d = { s.drive u with mainState := .idle, subState := .commandDone, target := goal, retries := 0
                             pending := some (0x20 ||| BitVec.ofNat 8 u), stepAt := none } →
        (main = .recalibrate → (s.drive u).med.track0 = true →
          t.drive u = { d with pcn := 0 } ∧ t.ctrl.intrq = true) ∧
        (main = .seek → (s.drive u).pcn = goal → t.drive u = d ∧ t.ctrl.intrq = true) ∧
        (main = .recalibrate → (s.drive u).med.track0 = false →
          (t.drive u).steps = (s.drive u).steps + 1 ∧ (t.drive u).dirOut = false ∧ (t.drive u).mainState = main ∧
          (t.drive u).stepAt = some (s.now + Config.stepInterval (s.ctrl.spec1.extractLsb' 4 4)) ∧
          t.ctrl.intrq = (s.ctrl.intrq || cut) ∧
          (t.drive u).pending = (if cut then some (0x60 ||| BitVec.ofNat 8 u) else (s.drive u).pending)) ∧
        (main = .seek → (s.drive u).pcn ≠ goal →
          (t.drive u).steps = (s.drive u).steps + 1 ∧ (t.drive u).dirOut = decide ((s.drive u).pcn < goal) ∧
          (t.drive u).pcn = (if (s.drive u).pcn < goal then (s.drive u).pcn + 1 else (s.drive u).pcn - 1) ∧
          (t.drive u).mainState = main ∧
          (t.drive u).stepAt = some (s.now + Config.stepInterval (s.ctrl.spec1.extractLsb' 4 4)) ∧
          t.ctrl.intrq = (s.ctrl.intrq || cut) ∧
          (t.drive u).pending = (if cut then some (0x60 ||| BitVec.ofNat 8 u) else (s.drive u).pending)))) ∧
  ∀ (s t : State) (u : Nat) (d x : Drive), u < 4 → u < s.drives.length → d = s.drive u → x = t.drive u →
    t = seekTick u s → (d.mainState = .seek ∨ d.mainState = .recalibrate) →
    t = { s with ctrl := t.ctrl, drives := t.drives } ∧ (∀ v : Nat, v ≠ u → t.drive v = s.drive v) ∧
    (∀ (st0 pcn : Byte) (n : Nat),
      (d.mainState = .seek ∧ d.pcn = d.target ∧ st0 = 0x20 ∧ pcn = d.pcn ∧ n = d.retries ∨
        d.mainState = .recalibrate ∧ d.med.track0 = true ∧ st0 = 0x20 ∧ pcn = 0 ∧ n = d.retries + 1 ∨
        d.mainState = .recalibrate ∧ d.med.track0 = false ∧ Config.seekRetryBound < d.retries + 1 ∧ st0 = 0x70 ∧
          pcn = d.pcn ∧ n = d.retries + 1) →
      x = { d with
        mainState := .idle, subState := .commandDone, pending := some (st0 ||| BitVec.ofNat 8 u), stepAt := none
        pcn := pcn, retries := n } ∧
      t.ctrl = { s.ctrl with intrq := true }) ∧
    (∀ (out : Bool) (pcn : Byte) (n : Nat),
      (d.mainState = .seek ∧ d.pcn ≠ d.target ∧ out = decide (d.pcn < d.target) ∧
          pcn = (if d.pcn < d.target then d.pcn + 1 else d.pcn - 1) ∧ n = d.retries ∨
        d.mainState = .recalibrate ∧ d.med.track0 = false ∧ d.retries + 1 ≤ Config.seekRetryBound ∧ out = false ∧
          pcn = d.pcn ∧ n = d.retries + 1) →
      x = { d with
        steps := d.steps + 1, dirOut := out, subState := .seekWaitStepSignalTime, pcn := pcn, retries := n
        stepAt := some (s.now + Config.stepInterval (s.ctrl.spec1.extractLsb' 4 4)) } ∧
      t.ctrl = s.ctrl)

/-- READ DATA, READ DELETED DATA, WRITE DATA, WRITE DELETED DATA and READ ID of a ready drive with a medium, for the
writing ones not write-protected: EXECUTION begins, the command's unit, head, MT, C, H, R, N and EOT become the target,
`cfg` is set from the command and the data rate selected then (log 45, log 56), and the head is loaded, at once if it
still is, else after the head-load time (log 36); READ ID's unit is that of its second byte (log 51). A seek of that
drive is ended, an abnormal seek-end status pending with INTRQ (log 20). With the head loaded the sector search begins:
LIVE_START(unit, SEARCH_ADDRESS_MARK_HEADER) and LIVE_RUN(NEVER) stand first in the inbox (log 17), the slot's search
retries counted from 0 (log 24). -/
def Obligations.DataCommandsStart : Prop :=
  ∀ (s : State) (a : DataArgs) (i : Instr) (main : MainState) (kind : JobKind) (writes : Bool) (u : Nat) (c : Cfg),
    s.ctrl.phase = .command → heldInReset s = false → u = a.hu.toNat % 4 →
    u < s.par.ndrives → u < s.drives.length → (s.drive u).med.ready = true → (s.drive u).med.present = true →
    (writes = true → (s.drive u).med.wp = false) →
    c.mode = (if a.flags.getLsbD 1 then .mfm else .fm) →
    c.cellNominal = cellNominalOf s.par s.ctrl.rate c.mode → c.tcDone = false →
    c.fmtSectors = s.cfg.fmtSectors → c.fmtFill = s.cfg.fmtFill → c.fmtGap3 = s.cfg.fmtGap3 →
    (i = .readId a.flags a.hu ∧ writes = false ∧ main = .readId ∧ kind = .readId ∧
        c.sectorSize = s.cfg.sectorSize ∧ c.damDeleted = s.cfg.damDeleted ∨
      c.sectorSize = sectorSizeOf a.n ∧
        (i = .readData a ∧ writes = false ∧ main = .readData ∧ kind = .readData ∧ c.damDeleted = false ∨
          i = .readDeletedData a ∧ writes = false ∧ main = .readData ∧ kind = .readDeleted ∧ c.damDeleted = false ∨
          i = .writeData a ∧ writes = true ∧ main = .writeData ∧ kind = .writeData ∧ c.damDeleted = false ∨
          i = .writeDeletedData a ∧ writes = true ∧ main = .writeData ∧ kind = .writeDeleted ∧ c.damDeleted = true)) →
    ∃ (t h b : State) (j : Job), exec i s = .next t ∧ t.ctrl.phase = .execution ∧ t.ctrl.tc = false ∧ t.cfg = c ∧
      j = t.ctrl.job ∧ j.kind = kind ∧ j.step = .headLoad ∧ j.unit.toNat = u ∧ j.hd = a.hu.getLsbD 2 ∧
      j.idx = 0 ∧ j.st1 = 0 ∧ j.st2 = 0 ∧
      (kind ≠ .readId → j.c = a.c ∧ j.h = a.h ∧ j.r = a.r ∧ j.n = a.n ∧ j.eot = a.eot ∧ j.mt = a.flags.getLsbD 2) ∧
      (s.live.drive = none → t.live = s.live ∧ t.snap = s.snap) ∧ t.pll = s.pll ∧ t.fifo = s.fifo ∧
      (t.drive u).mainState = main ∧ (∀ d : Nat, (t.drive d).med = (s.drive d).med) ∧
      ((s.drive u).mainState = .seek ∨ (s.drive u).mainState = .recalibrate →
        (t.drive u).pending = some (0x60 ||| BitVec.ofNat 8 u) ∧ (t.drive u).stepAt = none ∧ t.ctrl.intrq = true) ∧
      ((s.drive u).mainState ≠ .seek → (s.drive u).mainState ≠ .recalibrate →
        (t.drive u).pending = (s.drive u).pending ∧ t.ctrl.intrq = s.ctrl.intrq) ∧
      (s.ctrl.headLoad = true → t.inbox = .client .headLoaded :: s.inbox) ∧
      (s.ctrl.headLoad = false → t.inbox = s.inbox ∧ t.ctrl.headLoad = true ∧
        t.ctrl.headAt = some (s.now + Config.headLoadTime (s.ctrl.spec2.extractLsb' 1 7)) ∧
        ∀ n : Nat, (sound n .head t).inbox = .client .headLoaded :: s.inbox) ∧
      h = clientStep .headLoaded t ∧ h.inbox = .client .beginSearch :: t.inbox ∧
      (h.drive u).subState = .headLoadDone ∧
      b = clientStep .beginSearch { h with inbox := t.inbox } ∧ b.live = t.live ∧ b.cfg = c ∧
      (b.drive u).subState = .scanId ∧ (b.drive u).searchRetries = 0 ∧
      b.ctrl.job = { j with step := .scanId, idx := 0 } ∧
      b.inbox = .request (encode (.liveStart u .searchAddressMarkHeader)) :: (runInputs ++ t.inbox)

/-- Not ready or without a medium (log 58), or write-protected where the command writes: every command with an execution
phase on a drive, READ TRACK, READ ID, FORMAT TRACK and the SCANs among them, is over before the engine is started, with
an abnormal ST0 (not ready), or an abnormal ST0 and ST1 not writable; the RESULT phase and INTRQ follow, and ST0 is the
drive's last reported one. C, H, R, N are the target's; where there is none they are not given (log 25). That READ TRACK
and the SCANs check the drive so is log 19, that a unit of no drive counts as not ready log 61, that C, H, R, N are the
target's log 59, READ ID's head and unit in its second byte log 51. -/
def Obligations.CommandsEndBeforeStart : Prop :=
  ∀ (s : State) (i : Instr) (hu : Byte) (u : Nat), s.ctrl.phase = .command → heldInReset s = false →
    7 ≤ s.par.resBufLen → headUnitByte i = some hu → u = hu.toNat % 4 →
    ∃ t : State, exec i s = .next t ∧
      (∀ st0 st1 : Byte,
        ((u < s.par.ndrives → (s.drive u).med.ready = false ∨ (s.drive u).med.present = false) ∧ st0 = 0x48 ||| (hu &&& 7) ∧ st1 = 0 ∨
          u < s.par.ndrives ∧ (s.drive u).med.ready = true ∧ (s.drive u).med.present = true ∧ writesMedium i = true ∧
            (s.drive u).med.wp = true ∧ st0 = 0x40 ||| (hu &&& 7) ∧ st1 = 2) →
        t.ctrl.phase = .result ∧ t.ctrl.intrq = true ∧ t.ctrl.resBuf.length = 7 ∧
        t.ctrl.resBuf.take 3 = [st0, st1, 0] ∧
        (∀ bytes : List Byte, targetBytes i = some bytes → t.ctrl.resBuf.drop 3 = bytes) ∧
        (u < s.drives.length → (t.drive u).st0 = st0) ∧
        t.inbox = s.inbox ∧ (s.live.drive = none → t.live = s.live ∧ t.snap = s.snap) ∧ t.pll = s.pll ∧
        ∀ d : Nat, (t.drive d).med = (s.drive d).med)

/-- FORMAT TRACK of a ready, unprotected drive with a medium sets `cfg` from its bytes and the data rate (log 45, log
56), loads the head, at once if it still is, else after the head-load time, and waits for the index pulse with nothing
started; at the pulse LIVE_START(unit, WRITE_TRACK_PRE_SECTORS) and LIVE_RUN(NEVER) are issued. With no sectors, READ
TRACK and the three SCAN commands enter EXECUTION, set `cfg` and end without the engine, in a result of seven bytes of
which the spec gives only the unit and the bits that are 0 (log 19, log 42; by way of TRACK_DONE log 21; the sub_state
while a format waits log 53; the head log 36; the requests and looks in the inbox log 17). -/
def Obligations.FormatAndUndescribedStart : Prop :=
  ∀ (s : State) (u : Nat) (flags : BitVec 3) (hu n : Byte) (c : Cfg),
    s.ctrl.phase = .command → heldInReset s = false → hu.toNat % 4 = u → u < s.par.ndrives → u < s.drives.length →
    7 ≤ s.par.resBufLen → (s.drive u).med.ready = true → (s.drive u).med.present = true →
    c = { s.cfg with
      mode := if flags.getLsbD 1 then .mfm else .fm
      cellNominal := cellNominalOf s.par s.ctrl.rate (if flags.getLsbD 1 then .mfm else .fm)
      sectorSize := sectorSizeOf n
      damDeleted := false
      tcDone := false } →
    (∀ sc gpl d : Byte, (s.drive u).med.wp = false → sc ≠ 0 →
      ∃ t h : State, exec (.formatTrack flags hu n sc gpl d) s = .next t ∧ t.ctrl.phase = .execution ∧
        t.cfg = { c with fmtSectors := sc, fmtGap3 := gpl, fmtFill := d } ∧
        t.ctrl.job.kind = .format ∧ t.ctrl.job.unit.toNat = u ∧ t.ctrl.job.hd = hu.getLsbD 2 ∧
        (s.live.drive = none → t.live = s.live) ∧ t.fifo = s.fifo ∧ t.ctrl.headLoad = true ∧
        (s.ctrl.headLoad = true → t.inbox = .client .headLoaded :: s.inbox) ∧
        (s.ctrl.headLoad = false → t.inbox = s.inbox ∧
          t.ctrl.headAt = some (s.now + Config.headLoadTime (s.ctrl.spec2.extractLsb' 1 7)) ∧
          ∀ n : Nat, (sound n .head t).inbox = .client .headLoaded :: s.inbox) ∧
        h = clientStep .headLoaded t ∧ h.inbox = t.inbox ∧ (h.drive u).subState = .headLoadDone ∧
        (clientStep .afterIndex h).inbox =
          .request (encode (.liveStart u .writeTrackPreSectors)) :: (runInputs ++ t.inbox)) ∧
    (∀ (i : Instr) (k : Cfg),
      ((∃ gpl d : Byte, (s.drive u).med.wp = false ∧ i = .formatTrack flags hu n 0 gpl d ∧
          k = { c with fmtSectors := 0, fmtGap3 := gpl, fmtFill := d }) ∨
        (∃ a : DataArgs, undescribedArgs i = some a ∧ a.flags = flags ∧ a.hu = hu ∧ a.n = n ∧ k = c)) →
      ∃ t h r f : State, exec i s = .next t ∧ t.ctrl.phase = .execution ∧ t.cfg = k ∧
        (s.live.drive = none → t.live = s.live) ∧ t.fifo = s.fifo ∧ t.ctrl.headLoad = true ∧
        (s.ctrl.headLoad = true → t.inbox = .client .headLoaded :: s.inbox) ∧
        (s.ctrl.headLoad = false → t.inbox = s.inbox ∧
          t.ctrl.headAt = some (s.now + Config.headLoadTime (s.ctrl.spec2.extractLsb' 1 7)) ∧
          ∀ n : Nat, (sound n .head t).inbox = .client .headLoaded :: s.inbox) ∧
        h = clientStep .headLoaded t ∧ h.inbox = .client .undescribedDone :: t.inbox ∧
        r = clientStep .undescribedDone { h with inbox := t.inbox } ∧ r.inbox = .client .trackDone :: t.inbox ∧
        (r.drive u).subState = .trackDone ∧
        f = clientStep .trackDone { r with inbox := t.inbox } ∧ f.ctrl.phase = .result ∧ f.ctrl.intrq = true ∧
        f.ctrl.resBuf.length = 7 ∧ (f.ctrl.resBuf.getD 0 0) &&& 7 = hu &&& 7 ∧
        (f.ctrl.resBuf.getD 1 0) &&& 0x48 = 0 ∧ (f.ctrl.resBuf.getD 2 0) &&& 0x80 = 0 ∧ f.live = t.live)

/-! The controller around the engine. In these statements `hu` is the head and unit of ST0 and `chrn` C, H, R, N of the
command in execution. -/

/-- A header run has reached IDLE. READ ID ends with the ID captured, whatever its residue, which is reported. A data
command whose target is the ID, residue zero, goes on to the data field, a write to the gap before it. Any other ID
restarts the search with the index pulses counted on; a bad residue leaves ST1 data error behind, a difference in C only
ST2 wrong cylinder, with bad cylinder when C reads 0xFF (log 24, log 17; READ ID's normal end beside a bad residue log
37). -/
def Obligations.CapturedIdIsEvaluated : Prop :=
  ∀ (s t : State) (j : Job) (u : Nat) (l : Live), j = s.ctrl.job → u = j.unit.toNat → l = s.live →
    j.step = .scanId → l.state = .idle → t = clientStep .afterRun s → 7 ≤ s.par.resBufLen → u < s.drives.length →
    (j.kind = .readId → t.ctrl.phase = .result ∧ t.ctrl.intrq = true ∧ t.inbox = s.inbox ∧
      t.ctrl.resBuf = [headUnit j.hd j.unit, if l.crc = 0 then 0 else 0x20, 0,
        l.idbuf.b0, l.idbuf.b1, l.idbuf.b2, l.idbuf.b3]) ∧
    (j.kind ≠ .readId → ∀ hit : Prop,
      hit = (l.crc = 0 ∧ l.idbuf.b0 = j.c ∧ l.idbuf.b1 = j.h ∧ l.idbuf.b2 = j.r ∧ l.idbuf.b3 = j.n) →
      (hit → t.ctrl.job.step = .dataField ∧ t.ctrl.job.st1 = 0 ∧ t.ctrl.job.st2 = 0 ∧
        (t.drive u).subState = (if j.kind.toMedium then .sectorWrite else .sectorRead) ∧
        t.inbox = .request (encode (.liveStart u
          (if j.kind.toMedium then .writeSectorSkipGap2 else .searchAddressMarkData))) :: (runInputs ++ s.inbox)) ∧
      (¬hit →
        t.inbox = .request (encode (.liveStart u .searchAddressMarkHeader)) :: (runInputs ++ s.inbox) ∧
        t.ctrl.job.step = .scanId ∧ t.ctrl.job.idx = j.idx ∧
        (t.drive u).searchRetries = (s.drive u).searchRetries + 1 ∧
        t.ctrl.job.st1 = (if l.crc = 0 then j.st1 else j.st1 ||| 0x20) ∧
        t.ctrl.job.st2 =
          (if l.crc = 0 ∧ l.idbuf.b0 ≠ j.c ∧ l.idbuf.b1 = j.h ∧ l.idbuf.b2 = j.r ∧ l.idbuf.b3 = j.n then
            j.st2 ||| (if l.idbuf.b0 = 0xFF then 0x12 else 0x10) else j.st2)))

/-- How a READ DATA or READ DELETED DATA run that has reached IDLE and is no good sector is reported: the data mark
missing before anything else, then the overrun, then the residue, then a deleted mark against the command's expectation,
which sets ST2 control mark beside an overrun or a bad residue too; each ends the command with its status bits
(60_exceptions R351, R360; log 23), the last through TRACK_DONE, at once with terminal count or an empty FIFO, else when
the host has taken the bytes (log 21). C, H, R, N are the target's (log 59). -/
def Obligations.DataRunIsReported : Prop :=
  ∀ (s t : State) (j : Job) (hu cm : Byte) (chrn : List Byte), j = s.ctrl.job → j.step = .dataField →
    s.live.state = .idle → (j.kind = .readData ∨ j.kind = .readDeleted) → t = clientStep .afterWake s →
    7 ≤ s.par.resBufLen → hu = headUnit j.hd j.unit → chrn = [j.c, j.h, j.r, j.n] →
    cm = (if s.live.flags.getLsbD 0 = (j.kind == .readDeleted) then 0 else 0x40) →
    (s.live.flags.getLsbD 1 = true →
      t.ctrl.phase = .result ∧ t.ctrl.resBuf = (0x40 ||| hu) :: 1 :: 1 :: chrn) ∧
    (s.live.flags.getLsbD 1 = false → s.live.flags.getLsbD 2 = true →
      t.ctrl.phase = .result ∧ t.ctrl.resBuf = (0x40 ||| hu) :: 0x10 :: cm :: chrn) ∧
    (s.live.flags.getLsbD 1 = false → s.live.flags.getLsbD 2 = false → s.live.crc ≠ 0 →
      t.ctrl.phase = .result ∧ t.ctrl.resBuf = (0x40 ||| hu) :: 0x20 :: (0x20 ||| cm) :: chrn) ∧
    (s.live.flags.getLsbD 1 = false → s.live.flags.getLsbD 2 = false → s.live.crc = 0 → cm ≠ 0 →
      t.ctrl.resBuf = hu :: 0 :: 0x40 :: chrn ∧
      t.inbox = (if s.ctrl.tc = true ∨ s.fifo = [] then [.client .trackDone] else []) ++ s.inbox ∧
      (clientStep .trackDone t).ctrl.phase = .result ∧ (clientStep .trackDone t).ctrl.intrq = true)

/-- A WRITE DATA run that has reached IDLE with F_OVERRUN ends the command with ST1 overrun, C, H, R, N the target's
(log 59). A good sector, read or written, advances the target by the four lines of R302; after terminal count the
command ends normally with the new target, at the end of the track with ST0 abnormal and ST1 end of cylinder, else the
next sector is searched for with the index pulses counted from 0 (log 24). Without terminal count RESULT waits until the
host has taken a read's bytes (log 21). HD of ST0 follows the head that a multi-track transfer toggles (log 42); the
requests and looks are log 17. -/
def Obligations.SectorEndIsReported : Prop :=
  ∀ (s t : State) (j : Job) (writes : Bool), j = s.ctrl.job → j.step = .dataField → s.live.state = .idle →
    writes = (j.kind == .writeData || j.kind == .writeDeleted) →
    (writes = true ∨ j.kind = .readData ∨ j.kind = .readDeleted) → t = clientStep .afterRun s →
    7 ≤ s.par.resBufLen → j.unit.toNat < s.drives.length →
    (writes = true → s.live.flags.getLsbD 2 = true →
      t.ctrl.phase = .result ∧
      t.ctrl.resBuf = [0x40 ||| headUnit j.hd j.unit, 0x10, 0, j.c, j.h, j.r, j.n]) ∧
    ((writes = true ∧ s.live.flags.getLsbD 2 = false ∨
        writes = false ∧ s.live.flags.getLsbD 1 = false ∧ s.live.flags.getLsbD 2 = false ∧ s.live.crc = 0 ∧
          s.live.flags.getLsbD 0 = (j.kind == .readDeleted)) →
      ∀ (n : Job) (done : Bool),
        (j.r ≠ j.eot ∧ n = { j with r := j.r + 1 } ∧ done = false ∨
          j.r = j.eot ∧ j.mt = true ∧ j.h = 0 ∧ n = { j with h := 1, r := 1, hd := !j.hd } ∧ done = false ∨
          j.r = j.eot ∧ j.mt = true ∧ j.h = 1 ∧ n = { j with h := 0, c := j.c + 1, r := 1, hd := !j.hd } ∧
            done = true ∨
          j.r = j.eot ∧ (j.mt = false ∨ j.h ≠ 0 ∧ j.h ≠ 1) ∧ n = { j with c := j.c + 1, r := 1 } ∧ done = true) →
        (s.ctrl.tc = true ∨ done = true →
          t.ctrl.resBuf = (if s.ctrl.tc then [headUnit n.hd n.unit, 0, 0, n.c, n.h, n.r, n.n]
            else [0x40 ||| headUnit n.hd n.unit, 0x80, 0, n.c, n.h, n.r, n.n]) ∧
          (t.drive j.unit.toNat).subState = .trackDone ∧
          t.inbox = (if s.ctrl.tc = true ∨ writes = true ∨ s.fifo = [] then [.client .trackDone] else []) ++ s.inbox ∧
          (clientStep .trackDone t).ctrl.phase = .result ∧ (clientStep .trackDone t).fifo = []) ∧
        (s.ctrl.tc = false → done = false → t.ctrl.phase = s.ctrl.phase ∧
          t.ctrl.job = { n with step := .scanId, idx := 0 } ∧
          t.inbox = .request (encode (.liveStart j.unit.toNat .searchAddressMarkHeader)) ::
            (runInputs ++ s.inbox)))

/-- TC: the flag is kept and LIVE_SYNC issued. Then, with a data field in flight, `cfg.tc_done` is set and the run goes
on; with the engine idle or searching for an ID, or the head being loaded (log 32), it is set too, LIVE_ABORT issued and
the command completed with what its IDs left in ST1 and ST2 (log 24); a format goes on without it (log 32). The
completion passes through TRACK_DONE and leaves the FIFO empty (log 21); the requests and looks are log 17. -/
def Obligations.TerminalCountResult : Prop :=
  ∀ (s t x : State) (j : Job), j = s.ctrl.job → t = clientStep .afterTc s →
    x = { s with cfg := { s.cfg with tcDone := true } } →
    (s.resetAt ≠ some s.now →
      deliver .tc s = .ok { s with
        ctrl := { s.ctrl with tc := true }
        inbox := .request (encode .liveSync) :: .client .afterTc :: s.inbox }) ∧
    (j.step = .dataField → s.live.state ≠ .idle → t = { x with inbox := runInputs ++ s.inbox }) ∧
    ((j.step = .scanId ∨ j.step = .headLoad ∧ j.kind ≠ .format) → j.kind ≠ .undescribed →
      t = { x with inbox := .request (encode .liveAbort) :: .client (.complete 0 j.st1 j.st2) :: s.inbox }) ∧
    (j.step = .draining →
      t = { x with inbox := .request (encode .liveAbort) :: .client .trackDone :: s.inbox }) ∧
    (j.step = .formatWait ∨ j.step = .headLoad ∧ j.kind = .format → t = s) ∧
    (j.step = .formatting → s.live.state ≠ .idle → t = { s with inbox := runInputs ++ s.inbox }) ∧
    (j.step = .none →
      (fieldInFlight s.live.state = true → t = { x with inbox := runInputs ++ s.inbox }) ∧
      (inFormat s.live.state = true → t = { s with inbox := runInputs ++ s.inbox }) ∧
      (fieldInFlight s.live.state = false → inFormat s.live.state = false →
        t = { x with inbox := .request (encode .liveAbort) :: s.inbox })) ∧
    (∀ (st1 st2 : Byte) (c f : State), c = clientStep (.complete 0 st1 st2) s →
      j.kind ≠ .readId → j.kind ≠ .format → s.ctrl.tc = true → 7 ≤ s.par.resBufLen →
      c.ctrl.resBuf = [headUnit j.hd j.unit, st1, st2, j.c, j.h, j.r, j.n] ∧
      c.inbox = .client .trackDone :: s.inbox ∧
      (f = clientStep .trackDone c → f.ctrl.phase = .result ∧ f.ctrl.intrq = true ∧ f.fifo = [] ∧
        f.ctrl.resBuf = c.ctrl.resBuf))

/-- NOT_READY of the live drive: LIVE_SYNC and LIVE_ABORT, then the command ends with ST0's IC = 11, an abnormal
termination by a change of the ready line, and the not-ready bit, in an ID
search too, or, with no command on that drive in execution, that status is pending for the drive (log 33). Of the drive of
the command in execution while it is not live: the command ends so, and the block, another drive's run in it or not, is
not concerned. Of any other drive the change of its ready line is pending (log 33; HD of a pending status and an earlier
one log 54). INDEX: the pulse is counted in an ID search, and at ID_INDEX_LIMIT LIVE_ABORT is issued and the
command ends abnormally with ST1 no data, for READ ID missing address mark; a format starts at the first pulse and is
aborted at the next, F_OVERRUN reporting missing ID bytes; any other run goes on. What the IDs left in ST1 and ST2 is
reported beside these ends (log 24), a format without F_OVERRUN ends through TRACK_DONE (log 21), the requests and looks
are log 17. -/
def Obligations.NotReadyAndIndexResult : Prop :=
  (∀ (s x : State) (d : Nat) (j : Job), j = s.ctrl.job → s.resetAt ≠ some s.now → d < s.drives.length → d < 4 →
    x = s.setDrive d { s.drive d with med := { (s.drive d).med with ready := false } } →
    (s.live.drive = some d →
      deliver (.notReady d) s = .ok { x with
        inbox := .request (encode .liveSync) :: .client (.afterNotReady d) :: s.inbox }) ∧
    (s.live.drive ≠ some d → j.step ≠ .none → j.step ≠ .draining → j.unit.toNat = d →
      deliver (.notReady d) s = .ok { x with inbox := .client (.complete 0xC8 j.st1 j.st2) :: s.inbox }) ∧
    (s.live.drive ≠ some d → (j.step = .none ∨ j.step = .draining ∨ j.unit.toNat ≠ d) →
      ∃ t : State, deliver (.notReady d) s = .ok t ∧ t.ctrl = { s.ctrl with intrq := true } ∧ t.live = s.live ∧
        t.drive d = { x.drive d with pending := some (0xC8 ||| BitVec.ofNat 8 d) }) ∧
    (clientStep (.afterNotReady d) s).inbox = .request (encode .liveAbort) ::
      .client (if j.step ≠ .none ∧ j.step ≠ .draining ∧ j.unit.toNat = d then .complete 0xC8 j.st1 j.st2
        else .reportNotReady d) :: s.inbox ∧
    ((clientStep (.reportNotReady d) s).drive d).pending = some (0xC8 ||| BitVec.ofNat 8 d) ∧
    (clientStep (.reportNotReady d) s).ctrl.intrq = true) ∧
  (∀ (s c : State) (j : Job) (st0 st1 st2 : Byte), j = s.ctrl.job → 7 ≤ s.par.resBufLen → st0 ≠ 0 →
    c = clientStep (.complete st0 st1 st2) s →
    c.ctrl.phase = .result ∧ c.ctrl.intrq = true ∧ c.inbox = s.inbox ∧ c.fifo = [] ∧
    c.ctrl.resBuf.take 3 = [st0 ||| headUnit j.hd j.unit, st1, st2] ∧ c.ctrl.resBuf.length = 7) ∧
  (∀ (s t : State) (j : Job), j = s.ctrl.job → t = clientStep .afterIndex s →
    (j.step = .scanId → s.par.idIndexLimit ≤ j.idx + 1 →
      t.inbox = .request (encode .liveAbort) ::
        .client (.complete 0x40 ((if j.kind = .readId then 1 else 4) ||| j.st1) j.st2) :: s.inbox) ∧
    (j.step = .scanId → j.idx + 1 < s.par.idIndexLimit → s.live.state ≠ .idle →
      t.ctrl = { s.ctrl with job := { j with idx := j.idx + 1 } } ∧ t.inbox = runInputs ++ s.inbox) ∧
    (j.step = .dataField → s.live.state ≠ .idle → t = { s with inbox := runInputs ++ s.inbox }) ∧
    (j.step = .formatWait →
      t.inbox = .request (encode (.liveStart j.unit.toNat .writeTrackPreSectors)) :: (runInputs ++ s.inbox) ∧
      t.ctrl.job.step = .formatting) ∧
    (j.step = .formatting → t = { s with
      inbox := .request (encode .liveAbort) :: .client .formatDone :: s.inbox }) ∧
    (j.kind = .format → 7 ≤ s.par.resBufLen → ∀ f : State, f = clientStep .formatDone s →
      (s.live.flags.getLsbD 2 = true → f.ctrl.phase = .result ∧
        f.ctrl.resBuf.take 3 = [0x40 ||| headUnit j.hd j.unit, 0x10, 0]) ∧
      (s.live.flags.getLsbD 2 = false → f.inbox = .client .trackDone :: s.inbox ∧
        f.ctrl.resBuf.take 3 = [headUnit j.hd j.unit, 0, 0])))

/-- A write of `cfg`: with no drive live, or without a change, it is stored and nothing else changes, in range or not
(log 46); with a drive live, `cfg.tc_done` may be set directly after a checkpoint; any other write is the hazard of R402:
`cfg` is stored, and the data the run carries become free values, while where the engine stands, its drive, its time,
the PLL and everything outside stay (log 34). -/
def Obligations.ConfigWriteResult : Prop :=
  ∀ (s : State) (c : Cfg) (allowed : Prop), s.resetAt ≠ some s.now →
    allowed = (s.live.drive = none ∨ c = s.cfg ∨
      (c = { s.cfg with tcDone := true } ∧ s.snap = ⟨s.live, s.pll⟩)) →
    deliver (.setCfg c) s = .ok (writeCfg c s) ∧
    (allowed → writeCfg c s = { s with cfg := c }) ∧
    (¬allowed → ∀ t : State, t = writeCfg c s →
      t = { s with cfg := c, live := t.live, snap := t.snap, freeCount := s.freeCount + 22 } ∧
      t.snap.pll = s.snap.pll ∧
      t.live.state = s.live.state ∧ t.live.nextState = s.live.nextState ∧ t.live.tm = s.live.tm ∧
      t.live.drive = s.live.drive ∧ t.live.bitCounter < 2 ^ s.par.counterBits ∧
      t.snap.live.state = s.snap.live.state ∧ t.snap.live.drive = s.snap.live.drive)

/-- The data register by phase: in COMMAND a write is appended to the command buffer and, when the command is complete,
starts it, an opcode that is no command ending in the one result byte 0x80 with INTRQ (log 41); outside its phase a
write changes nothing at all and a read changes nothing but the byte the host gets, which the spec does not give; in
EXECUTION it is the FIFO, in the direction of the command, and a read of an empty one gets a byte that is not given; in
RESULT it is the next result byte, and after the last the phase is COMMAND and INTRQ is dropped, but for SENSE INTERRUPT
STATUS, which leaves the line as it was (log 22, log 41). The host side of the FIFO is closed against the direction of a
running engine (log 49); the last byte of a finished read leads to RESULT (log 21). -/
def Obligations.DataRegisterByPhase : Prop :=
  (∀ (s : State) (v : Byte), heldInReset s = false →
    (s.ctrl.phase = .command → s.ctrl.cmdBuf.length < s.par.cmdBufLen → ∀ (buf : List Byte) (n : Nat),
      buf = s.ctrl.cmdBuf ++ [v] → n = (commandLength (buf.headD 0)).getD 1 →
      (buf.length < n → hostWrite 5 v s = .ok { s with ctrl := { s.ctrl with cmdBuf := buf } }) ∧
      (n ≤ buf.length → hostWrite 5 v s = .ok { s with
        ctrl := { s.ctrl with cmdBuf := buf }, inbox := .request ⟨.hostcmd, buf, []⟩ :: s.inbox })) ∧
    (s.ctrl.phase = .command → commandLength v = none → 1 ≤ s.par.resBufLen → ∀ rest : List Input,
      s.inbox = .request ⟨.hostcmd, [v], []⟩ :: rest →
      ∃ t : State, step s = .next t ∧ t.ctrl.phase = .result ∧ t.ctrl.resBuf = [0x80] ∧ t.ctrl.st0 = 0x80 ∧
        t.ctrl.intrq = true ∧ t.inbox = rest) ∧
    (s.ctrl.phase = .result → hostWrite 5 v s = .ok s) ∧
    (s.ctrl.phase = .execution → s.ctrl.job.kind.toMedium = false → hostWrite 5 v s = .ok s) ∧
    (s.ctrl.phase = .execution → s.ctrl.job.kind.toMedium = true →
      (s.fifo.length < s.par.fifoSize → engineEnqueues s.live.state = false →
        hostWrite 5 v s = .ok { s with fifo := s.fifo ++ [v] }) ∧
      (s.par.fifoSize ≤ s.fifo.length → hostWrite 5 v s = .ok s)) ∧
    ((s.ctrl.phase = .command ∨ s.ctrl.phase = .execution ∧ s.ctrl.job.kind.toHost = false) →
      ∃ b : Byte, hostRead 5 s = .ok { s with hostData := b, freeCount := s.freeCount + 1 }) ∧
    (s.ctrl.phase = .execution → s.ctrl.job.kind.toHost = true → s.fifo = [] →
      ∃ b : Byte, hostRead 5 s = .ok { s with hostData := b, freeCount := s.freeCount + 1 }) ∧
    (s.ctrl.phase = .execution → s.ctrl.job.kind.toHost = true → engineDequeues s.live.state = false →
      ∀ (b : Byte) (q : List Byte), s.fifo = b :: q →
        (s.ctrl.job.step ≠ .draining ∨ q ≠ [] → hostRead 5 s = .ok { s with fifo := q, hostData := b }) ∧
        (s.ctrl.job.step = .draining → q = [] → ∃ t : State, hostRead 5 s = .ok t ∧ t.hostData = b ∧
          t.ctrl.phase = .result ∧ t.ctrl.intrq = true)) ∧
    (s.ctrl.phase = .result → ∀ (b : Byte) (q : List Byte), s.ctrl.resBuf = b :: q →
      ∃ t : State, hostRead 5 s = .ok t ∧ t.hostData = b ∧ t.ctrl.resBuf = q ∧ t.fifo = s.fifo ∧ t.live = s.live ∧
        t.ctrl.phase = (if q = [] then .command else .result) ∧
        (q = [] → s.ctrl.job.kind ≠ .senseInterrupt → t.ctrl.intrq = false) ∧
        (q = [] → s.ctrl.job.kind = .senseInterrupt → t.ctrl.intrq = s.ctrl.intrq))) ∧
  (∀ (s : State) (v : Byte), s.resetAt ≠ some s.now →
    (s.ctrl.phase = .execution ∧ s.ctrl.job.kind.toHost = true ∨ engineEnqueues s.live.state = true →
      deliver (.fifoPut v) s = .ok s) ∧
    (s.ctrl.phase = .execution ∧ s.ctrl.job.kind.toMedium = true ∨ engineDequeues s.live.state = true →
      ∃ b : Byte, deliver .fifoGet s = .ok { s with hostData := b, freeCount := s.freeCount + 1 }))

/-- The other host registers: what a read answers and what a write changes, and nothing else. Status Registers A and B
are functions of the lines of the selected drive, index, track 0, write protect and the data rate among them (log 27).
Data Rate Select and Configuration Control set the rate by their low two bits. A write of the Digital Output Register
that keeps bit 2 only stores; leaving reset makes every drive's status pending, its top two bits and its number set (log
40), and raises INTRQ. Writes of offsets 0 and 1 are ignored; offset 6 reads as a value that is not given, and a write
of it is refused (log 28, log 30). -/
def Obligations.HostRegistersResult : Prop :=
  ∀ (s : State) (v : Byte) (rate : Nat),
    rate = (if v.getLsbD 1 then (if v.getLsbD 0 then 1000000 else 250000)
      else if v.getLsbD 0 then 300000 else 500000) →
    (∀ m : Drive, m = s.drive (s.ctrl.dor.toNat % 4) →
      (linesOf s).track0 = m.med.track0 ∧ (linesOf s).wp = m.med.wp ∧ (linesOf s).ready = m.med.ready ∧
      (linesOf s).index = (m.med.present && m.med.index.has s.now) ∧ (linesOf s).rate = s.ctrl.rate) ∧
    hostRead 0 s = .ok { s with hostData := Config.statusRegisterA (linesOf s) } ∧
    hostRead 1 s = .ok { s with hostData := Config.statusRegisterB (linesOf s) } ∧
    hostRead 2 s = .ok { s with hostData := s.ctrl.dor } ∧
    hostRead 3 s = .ok { s with hostData := s.ctrl.tdr } ∧
    hostRead 4 s = .ok { s with hostData := msr s } ∧
    (∃ b : Byte, b.getLsbD 7 = (s.drive (s.ctrl.dor.toNat % 4)).med.dskchg ∧
      hostRead 7 s = .ok { s with hostData := b, freeCount := s.freeCount + 1 }) ∧
    (∃ b : Byte, hostRead 6 s = .ok { s with hostData := b, freeCount := s.freeCount + 1 }) ∧
    hostWrite 6 v s = .error (.refused .noSuchOffset) ∧
    hostWrite 0 v s = .ok s ∧ hostWrite 1 v s = .ok s ∧
    hostWrite 3 v s = .ok { s with ctrl := { s.ctrl with tdr := v } } ∧
    hostWrite 7 v s = .ok { s with ctrl := { s.ctrl with ccr := v, rate := rate } } ∧
    (v.getLsbD 7 = false → hostWrite 4 v s = .ok { s with ctrl := { s.ctrl with dsr := v, rate := rate } }) ∧
    (v.getLsbD 2 = s.ctrl.dor.getLsbD 2 → hostWrite 2 v s = .ok { s with ctrl := { s.ctrl with dor := v } }) ∧
    (v.getLsbD 2 = true → s.ctrl.dor.getLsbD 2 = false →
      ∃ t : State, hostWrite 2 v s = .ok t ∧ t.ctrl = { s.ctrl with dor := v, intrq := true } ∧
        t = { s with ctrl := t.ctrl, drives := t.drives } ∧ t.drives.length = s.drives.length ∧
        ∀ d : Nat, d < 4 → d < s.drives.length →
          t.drive d = { s.drive d with pending := some (0xC0 ||| BitVec.ofNat 8 d) })

/-- The Main Status Register bit by bit: RQM (log 27 in DMA mode, log 29 in reset), DIO, non-DMA execution, a command in
progress, a seek on each drive. The request lines: DRQ is a FIFO service request of the transfer in execution in DMA mode,
INTRQ a completion or status change, in non-DMA mode also that service request, both gated by bit 3 of the Digital Output
Register; when the FIFO needs service is not given (log 27). -/
def Obligations.RequestLinesResult : Prop :=
  ∀ (s : State) (pio exec toHost toMedium service gate : Bool), pio = s.ctrl.spec2.getLsbD 0 →
    exec = (s.ctrl.phase == .execution) → toHost = s.ctrl.job.kind.toHost → toMedium = s.ctrl.job.kind.toMedium →
    service = (exec && (toHost || toMedium) &&
      Config.fifoNeedsService s.fifo.length (s.ctrl.conf2.extractLsb' 0 4) toHost) →
    gate = s.ctrl.dor.getLsbD 3 →
    ((msr s).getLsbD 7 = true ↔ s.ctrl.dor.getLsbD 2 = true ∧ (s.ctrl.phase ≠ .execution ∨ pio = true ∧
      (toHost = true ∧ s.fifo ≠ [] ∨ toMedium = true ∧ s.fifo.length < s.par.fifoSize))) ∧
    ((msr s).getLsbD 6 = true ↔ s.ctrl.phase = .result ∨ exec = true ∧ toHost = true) ∧
    ((msr s).getLsbD 5 = true ↔ exec = true ∧ pio = true) ∧
    ((msr s).getLsbD 4 = true ↔ s.ctrl.phase ≠ .command ∨ s.ctrl.cmdBuf ≠ []) ∧
    (∀ u : Nat, u < 4 →
      ((msr s).getLsbD u = true ↔ (s.drive u).mainState = .seek ∨ (s.drive u).mainState = .recalibrate)) ∧
    (drq s = true ↔ service = true ∧ pio = false ∧ gate = true) ∧
    (intrqLine s = true ↔ (s.ctrl.intrq = true ∨ pio = true ∧ service = true) ∧ gate = true)

/-- The scheduler. Real time never goes back, and only an event or an alarm moves it. What is due by the time of the event
that waits comes before it, the earliest first: a wake-up and an index pulse with LIVE_SYNC and the Command Engine's look,
the head timer, the seek timers; at one tick in that order, the lowest drive first, the event after them (log 18). With
nothing due the event is delivered; with nothing waiting and no alarm the machine rests. An index pulse is delivered once.
At a wake-up a running engine runs on. A head that no command waits for is unloaded (log 36). -/
def Obligations.SchedulerResult : Prop :=
  (∀ s t : State, step s = .next t → s.now ≤ t.now ∧
    ((∃ (r : Request) (rest : List Input), s.inbox = .request r :: rest) ∨
      (∃ (c : ClientStep) (rest : List Input), s.inbox = .client c :: rest) → t.now = s.now)) ∧
  (∀ (s : State) (n : Nat),
    ((∃ (t : Nat) (e : Event) (rest : List Input), s.inbox = .event t e :: rest ∧ n ≤ t) ∨ s.inbox = []) →
    (∀ rest : List Nat, s.wakeups = n :: rest → QuietUntil n n n (fun _ => n) s →
      step s = .next { s with
        wakeups := rest
        now := max s.now n
        inbox := .request (encode .liveSync) :: .client .afterWake :: s.inbox }) ∧
    (nextIndex s = .ticks n → QuietUntil (n + 1) n n (fun _ => n) s →
      step s = .next { s with
        idxDone := n + 1
        now := max s.now n
        inbox := .request (encode .liveSync) :: .client .afterIndex :: s.inbox }) ∧
    (s.ctrl.headAt = some n → QuietUntil (n + 1) (n + 1) n (fun _ => n) s →
      step s = .next (headTick { s with now := max s.now n })) ∧
    (∀ u : Nat, u < s.drives.length → (s.drive u).stepAt = some n →
      QuietUntil (n + 1) (n + 1) (n + 1) (fun v => if v < u then n + 1 else n) s →
      step s = .next (seekTick u { s with now := max s.now n }))) ∧
  (∀ (s : State) (t : Nat) (e : Event) (rest : List Input), s.inbox = .event t e :: rest →
    QuietUntil (t + 1) (t + 1) (t + 1) (fun _ => t + 1) s →
    step s = finish (deliver e { s with inbox := rest, now := max s.now t })) ∧
  (∀ s : State, s.inbox = [] → s.wakeups = [] → nextIndex s = .never → s.ctrl.headAt = none →
    (∀ d ∈ s.drives, d.stepAt = none) → step s = .next s) ∧
  (∀ (s : State) (d : Nat) (m : Medium) (n : Nat), s.live.drive = some d → m = (s.drive d).med → m.present = true →
    m.index.wf = true →
    (nextIndex s = .ticks n ↔ m.index.has n = true ∧ s.now ≤ n ∧ s.idxDone ≤ n ∧
      ∀ k : Nat, m.index.has k = true → s.now ≤ k → s.idxDone ≤ k → n ≤ k)) ∧
  (∀ s : State, s.live.state ≠ .idle → clientStep .afterWake s = { s with inbox := runInputs ++ s.inbox }) ∧
  ∀ s : State, s.ctrl.job.step ≠ .headLoad →
    headTick s = { s with ctrl := { s.ctrl with headAt := none, headLoad := false } }

/-- SOFT RESET: it always completes; the block has the values of 10_state R51 (a `cfg.cell_nominal` out of range taken
as it is, log 46), the FIFO is empty, CONFIGURE's bytes are kept with the lock and without it take their reset value,
which is the model's zero (log 15; what a soft reset clears beyond the block is log 40), `cfg` is kept and the media are
as LIVE_ABORT left them, or, where LIVE_ABORT would be refused, as they were (log 52); a second SOFT RESET at once gives
the identical state. -/
def Obligations.SoftResetTwiceIsOnce : Prop :=
  ∀ s : State, ∃ t : State, deliver .softReset s = .ok t ∧
    deliver .softReset t = .ok t ∧ t.live = Live.reset ∧ t.snap = ⟨t.live, t.pll⟩ ∧ t.fifo = [] ∧ t.cfg = s.cfg ∧
      t.ctrl.phase = .command ∧ t.ctrl.cmdBuf = [] ∧ t.ctrl.tc = false ∧ t.ctrl.lock = s.ctrl.lock ∧
      (s.ctrl.lock = true →
        t.ctrl.conf1 = s.ctrl.conf1 ∧ t.ctrl.conf2 = s.ctrl.conf2 ∧ t.ctrl.conf3 = s.ctrl.conf3) ∧
      (s.ctrl.lock = false → t.ctrl.conf1 = 0 ∧ t.ctrl.conf2 = 0 ∧ t.ctrl.conf3 = 0) ∧
      (∀ (a : State) (d : Nat), abort s = .ok a → (t.drive d).med = (a.drive d).med) ∧
      (∀ (e : Stop) (d : Nat), abort s = .error e → (t.drive d).med = (s.drive d).med) ∧
      t.pll = { Pll.reset with
        nominal := s.cfg.cellNominal
        period := s.cfg.cellNominal
        adjBase := s.cfg.cellNominal * s.par.pllFreqNum / s.par.pllFreqDen
        minPeriod := s.cfg.cellNominal * s.par.pllMinNum / s.par.pllMinDen
        maxPeriod := s.cfg.cellNominal * s.par.pllMaxNum / s.par.pllMaxDen
        maxAdj := s.par.pllMaxPhaseAdj.getD (s.cfg.cellNominal * s.par.pllMinNum / s.par.pllMinDen - 1) }

/-- The other resets (`a` is the state LIVE_ABORT leaves, or, where it would be refused, the state as it is, log 52): HARD
RESET gives the values of 10_state R51 and R40 and the controller's (log 15, log 16), and the media stay; a Digital Output
Register write that clears bit 2 performs the reset actions and holds the controller in reset, with no status pending;
Data Rate Select with bit 7 performs them and leaves reset by itself, the rate selected (log 28, log 40). A terminal
count, a FIFO access, a write of `cfg`, a request of the client and a host write but of the Digital Output Register at the
tick of a reset leave the reset state as it is (log 18, which names what is left: another reset, that register, host
reads, the ready lines and a change of medium). -/
def Obligations.ResetsResult : Prop :=
  (∀ s a : State, (abort s = .ok a ∨ (∃ e : Stop, abort s = .error e) ∧ a = s) →
    (∃ t : State, deliver .hardReset s = .ok t ∧ t.live = Live.reset ∧ t.snap = ⟨t.live, t.pll⟩ ∧ t.fifo = [] ∧
      t.cfg = Cfg.reset ∧ t.ctrl = Controller.reset s.par.rate ∧
      (s.par = Params.reference → t.pll = Pll.reset) ∧ t.resetAt = some s.now ∧ t.now = s.now ∧
      ∀ d : Nat, t.drive d = Drive.reset (a.drive d).med) ∧
    (∀ (v : Byte) (rate : Nat), s.resetAt ≠ some s.now → v.getLsbD 7 = true →
      rate = (if v.getLsbD 1 then (if v.getLsbD 0 then 1000000 else 250000)
        else if v.getLsbD 0 then 300000 else 500000) →
      ∃ t : State, deliver (.hostWrite 4 v) s = .ok t ∧ t.ctrl.rate = rate ∧ t.ctrl.dsr = v &&& 0x7F ∧
        t.ctrl.intrq = true ∧ t.ctrl.phase = .command ∧ t.live = Live.reset ∧ t.fifo = [] ∧ t.cfg = s.cfg ∧
        (∀ d : Nat, (t.drive d).med = (a.drive d).med) ∧
        ∀ d : Nat, d < 4 → d < s.drives.length → (t.drive d).pending = some (0xC0 ||| BitVec.ofNat 8 d))) ∧
  (∀ (s x a : State) (v : Byte), s.ctrl.dor.getLsbD 2 = true → v.getLsbD 2 = false →
    x = { s with ctrl := { s.ctrl with dor := v } } →
    (abort x = .ok a ∨ (∃ e : Stop, abort x = .error e) ∧ a = x) →
    ∃ t : State, deliver (.hostWrite 2 v) s = .ok t ∧ t.ctrl.dor = v ∧ heldInReset t = true ∧
      t.ctrl.intrq = false ∧ t.ctrl.phase = .command ∧ t.live = Live.reset ∧ t.fifo = [] ∧ t.cfg = s.cfg ∧
      t.resetAt = some s.now ∧
      (∀ d : Nat, t.drive d = Drive.reset (a.drive d).med) ∧ ∀ d ∈ t.drives, d.pending = none) ∧
  (∀ (s : State) (e : Event) (v : Byte) (off : Nat) (c : Cfg) (r : Request), s.resetAt = some s.now →
    (e = .tc ∨ e = .fifoPut v ∨ e = .fifoGet ∨ e = .setCfg c ∨ e = .operate r ∨ (e = .hostWrite off v ∧ off ≠ 2)) →
    deliver e s = .ok s)

/-- The invariant that every step keeps, from every state: the media and the wake-ups are in canonical form, the FIFO
holds at most FIFO_SIZE bytes, and the parameters never change. -/
def Obligations.StepKeepsCanonicalForm : Prop :=
  ∀ s t : State, MediaCanonical s → FifoFits s → step s = .next t →
    MediaCanonical t ∧ FifoFits t ∧ t.par = s.par

/-- The engine's own invariant, kept by every step, whatever arrives, but a request that moves the PLL, the write buffer
or one cell by itself: with no drive live the engine is in IDLE, at no time and out of write mode; with a drive live it
is in a running state, `live.tm` is the PLL's cursor, cells have positive length, and what is buffered lies in the span
between the last commit and the cursor; the checkpoint is such a state too. The parameters meet 00_scope R8's
constraints. -/
def Obligations.EngineStaysSound : Prop :=
  ∀ s t : State, EngineSound s →
    (∀ (r : Request) (rest : List Input) (i : Instr), s.inbox = .request r :: rest → decode r = .ok i →
      movesAlone i = false) →
    step s = .next t → EngineSound t

/-- The state right after reset: the invariants hold, the block has the values of 10_state R51 and the reset column of
R40, the FIFO is empty, the phase is COMMAND and the Main Status Register reads 0x80. -/
def Obligations.ResetStateIsInForm : Prop :=
  MediaCanonical State.reset ∧ FifoFits State.reset ∧ EngineSound State.reset ∧
  State.reset.live = {
    shiftReg := 0, wsr := 0, crc := 0xFFFF, bitCounter := 0, byteCounter := 0, dataReg := 0
    idbuf := ⟨0, 0, 0, 0, 0, 0⟩, state := .idle, nextState := none, tm := .never, drive := none, flags := 0 } ∧
  State.reset.pll = {
    ctime := .ticks 0, period := 2000, phaseAdjust := 0, freqHist := 0, nominal := 2000, adjBase := 100
    minPeriod := 1500, maxPeriod := 2500, maxAdj := 1499, writeStart := .never, wbuf := [] } ∧
  State.reset.snap = ⟨State.reset.live, State.reset.pll⟩ ∧
  State.reset.cfg = {
    mode := .mfm, cellNominal := 2000, sectorSize := 512, damDeleted := false, tcDone := false
    fmtSectors := 0, fmtFill := 0, fmtGap3 := 0 } ∧
  State.reset.fifo = [] ∧ State.reset.ctrl.phase = .command ∧ State.reset.ctrl.cmdBuf = [] ∧
  msr State.reset = 0x80
end

