-- ==== Sys2Proof/Laws/State.lean ====
section
/-! SUPPORT. One lemma per field per state update, and the small lemmas of drives and outcomes. -/

namespace Sys2Proof.Laws

open Sys2Proof.Machine

variable (s : State)

@[simp] theorem setLive_live (l : Live) : (s.setLive l).live = l := rfl
@[simp] theorem setLive_pll (l : Live) : (s.setLive l).pll = s.pll := rfl
@[simp] theorem setLive_par (l : Live) : (s.setLive l).par = s.par := rfl
@[simp] theorem setLive_snap (l : Live) : (s.setLive l).snap = s.snap := rfl
@[simp] theorem setLive_cfg (l : Live) : (s.setLive l).cfg = s.cfg := rfl
@[simp] theorem setLive_now (l : Live) : (s.setLive l).now = s.now := rfl
@[simp] theorem setLive_wakeups (l : Live) : (s.setLive l).wakeups = s.wakeups := rfl
@[simp] theorem setLive_fifo (l : Live) : (s.setLive l).fifo = s.fifo := rfl
@[simp] theorem setLive_drives (l : Live) : (s.setLive l).drives = s.drives := rfl
@[simp] theorem setLive_ctrl (l : Live) : (s.setLive l).ctrl = s.ctrl := rfl
@[simp] theorem setLive_inbox (l : Live) : (s.setLive l).inbox = s.inbox := rfl
@[simp] theorem setLive_resetAt (l : Live) : (s.setLive l).resetAt = s.resetAt := rfl
@[simp] theorem setLive_freeCount (l : Live) : (s.setLive l).freeCount = s.freeCount := rfl
@[simp] theorem setLive_idxDone (l : Live) : (s.setLive l).idxDone = s.idxDone := rfl
@[simp] theorem setLive_hostData (l : Live) : (s.setLive l).hostData = s.hostData := rfl

@[simp] theorem setPll_pll (p : Pll) : (s.setPll p).pll = p := rfl
@[simp] theorem setPll_live (p : Pll) : (s.setPll p).live = s.live := rfl
@[simp] theorem setPll_par (p : Pll) : (s.setPll p).par = s.par := rfl
@[simp] theorem setPll_snap (p : Pll) : (s.setPll p).snap = s.snap := rfl
@[simp] theorem setPll_cfg (p : Pll) : (s.setPll p).cfg = s.cfg := rfl
@[simp] theorem setPll_now (p : Pll) : (s.setPll p).now = s.now := rfl
@[simp] theorem setPll_wakeups (p : Pll) : (s.setPll p).wakeups = s.wakeups := rfl
@[simp] theorem setPll_fifo (p : Pll) : (s.setPll p).fifo = s.fifo := rfl
@[simp] theorem setPll_drives (p : Pll) : (s.setPll p).drives = s.drives := rfl
@[simp] theorem setPll_ctrl (p : Pll) : (s.setPll p).ctrl = s.ctrl := rfl
@[simp] theorem setPll_inbox (p : Pll) : (s.setPll p).inbox = s.inbox := rfl
@[simp] theorem setPll_resetAt (p : Pll) : (s.setPll p).resetAt = s.resetAt := rfl
@[simp] theorem setPll_freeCount (p : Pll) : (s.setPll p).freeCount = s.freeCount := rfl
@[simp] theorem setPll_idxDone (p : Pll) : (s.setPll p).idxDone = s.idxDone := rfl
@[simp] theorem setPll_hostData (p : Pll) : (s.setPll p).hostData = s.hostData := rfl

@[simp] theorem setCtrl_ctrl (c : Controller) : (s.setCtrl c).ctrl = c := rfl
@[simp] theorem setCtrl_live (c : Controller) : (s.setCtrl c).live = s.live := rfl
@[simp] theorem setCtrl_pll (c : Controller) : (s.setCtrl c).pll = s.pll := rfl
@[simp] theorem setCtrl_par (c : Controller) : (s.setCtrl c).par = s.par := rfl
@[simp] theorem setCtrl_snap (c : Controller) : (s.setCtrl c).snap = s.snap := rfl
@[simp] theorem setCtrl_cfg (c : Controller) : (s.setCtrl c).cfg = s.cfg := rfl
@[simp] theorem setCtrl_now (c : Controller) : (s.setCtrl c).now = s.now := rfl
@[simp] theorem setCtrl_wakeups (c : Controller) : (s.setCtrl c).wakeups = s.wakeups := rfl
@[simp] theorem setCtrl_fifo (c : Controller) : (s.setCtrl c).fifo = s.fifo := rfl
@[simp] theorem setCtrl_drives (c : Controller) : (s.setCtrl c).drives = s.drives := rfl
@[simp] theorem setCtrl_inbox (c : Controller) : (s.setCtrl c).inbox = s.inbox := rfl
@[simp] theorem setCtrl_drive (c : Controller) (d : Nat) : (s.setCtrl c).drive d = s.drive d := rfl
@[simp] theorem setCtrl_resetAt (c : Controller) : (s.setCtrl c).resetAt = s.resetAt := rfl
@[simp] theorem setCtrl_freeCount (c : Controller) : (s.setCtrl c).freeCount = s.freeCount := rfl
@[simp] theorem setCtrl_idxDone (c : Controller) : (s.setCtrl c).idxDone = s.idxDone := rfl
@[simp] theorem setCtrl_hostData (c : Controller) : (s.setCtrl c).hostData = s.hostData := rfl

@[simp] theorem setFifo_fifo (q : List Byte) : (s.setFifo q).fifo = q := rfl
@[simp] theorem setFifo_live (q : List Byte) : (s.setFifo q).live = s.live := rfl
@[simp] theorem setFifo_pll (q : List Byte) : (s.setFifo q).pll = s.pll := rfl
@[simp] theorem setFifo_par (q : List Byte) : (s.setFifo q).par = s.par := rfl
@[simp] theorem setFifo_cfg (q : List Byte) : (s.setFifo q).cfg = s.cfg := rfl
@[simp] theorem setFifo_now (q : List Byte) : (s.setFifo q).now = s.now := rfl
@[simp] theorem setFifo_drives (q : List Byte) : (s.setFifo q).drives = s.drives := rfl
@[simp] theorem setFifo_ctrl (q : List Byte) : (s.setFifo q).ctrl = s.ctrl := rfl
@[simp] theorem setFifo_resetAt (q : List Byte) : (s.setFifo q).resetAt = s.resetAt := rfl
@[simp] theorem setFifo_freeCount (q : List Byte) : (s.setFifo q).freeCount = s.freeCount := rfl
@[simp] theorem setFifo_idxDone (q : List Byte) : (s.setFifo q).idxDone = s.idxDone := rfl
@[simp] theorem setFifo_hostData (q : List Byte) : (s.setFifo q).hostData = s.hostData := rfl

@[simp] theorem setOutcome_outcome (o : OpOutcome) : (s.setOutcome o).outcome = o := rfl
@[simp] theorem setOutcome_live (o : OpOutcome) : (s.setOutcome o).live = s.live := rfl
@[simp] theorem setOutcome_pll (o : OpOutcome) : (s.setOutcome o).pll = s.pll := rfl
@[simp] theorem setOutcome_par (o : OpOutcome) : (s.setOutcome o).par = s.par := rfl
@[simp] theorem setOutcome_snap (o : OpOutcome) : (s.setOutcome o).snap = s.snap := rfl
@[simp] theorem setOutcome_cfg (o : OpOutcome) : (s.setOutcome o).cfg = s.cfg := rfl
@[simp] theorem setOutcome_now (o : OpOutcome) : (s.setOutcome o).now = s.now := rfl
@[simp] theorem setOutcome_wakeups (o : OpOutcome) : (s.setOutcome o).wakeups = s.wakeups := rfl
@[simp] theorem setOutcome_fifo (o : OpOutcome) : (s.setOutcome o).fifo = s.fifo := rfl
@[simp] theorem setOutcome_drives (o : OpOutcome) : (s.setOutcome o).drives = s.drives := rfl
@[simp] theorem setOutcome_ctrl (o : OpOutcome) : (s.setOutcome o).ctrl = s.ctrl := rfl
@[simp] theorem setOutcome_inbox (o : OpOutcome) : (s.setOutcome o).inbox = s.inbox := rfl
@[simp] theorem setOutcome_drive (o : OpOutcome) (d : Nat) : (s.setOutcome o).drive d = s.drive d := rfl
@[simp] theorem setOutcome_resetAt (o : OpOutcome) : (s.setOutcome o).resetAt = s.resetAt := rfl
@[simp] theorem setOutcome_freeCount (o : OpOutcome) : (s.setOutcome o).freeCount = s.freeCount := rfl
@[simp] theorem setOutcome_idxDone (o : OpOutcome) : (s.setOutcome o).idxDone = s.idxDone := rfl
@[simp] theorem setOutcome_hostData (o : OpOutcome) : (s.setOutcome o).hostData = s.hostData := rfl

@[simp] theorem setDrive_live (d : Nat) (x : Drive) : (s.setDrive d x).live = s.live := rfl
@[simp] theorem setDrive_pll (d : Nat) (x : Drive) : (s.setDrive d x).pll = s.pll := rfl
@[simp] theorem setDrive_par (d : Nat) (x : Drive) : (s.setDrive d x).par = s.par := rfl
@[simp] theorem setDrive_snap (d : Nat) (x : Drive) : (s.setDrive d x).snap = s.snap := rfl
@[simp] theorem setDrive_cfg (d : Nat) (x : Drive) : (s.setDrive d x).cfg = s.cfg := rfl
@[simp] theorem setDrive_now (d : Nat) (x : Drive) : (s.setDrive d x).now = s.now := rfl
@[simp] theorem setDrive_wakeups (d : Nat) (x : Drive) : (s.setDrive d x).wakeups = s.wakeups := rfl
@[simp] theorem setDrive_fifo (d : Nat) (x : Drive) : (s.setDrive d x).fifo = s.fifo := rfl
@[simp] theorem setDrive_ctrl (d : Nat) (x : Drive) : (s.setDrive d x).ctrl = s.ctrl := rfl
@[simp] theorem setDrive_inbox (d : Nat) (x : Drive) : (s.setDrive d x).inbox = s.inbox := rfl
@[simp] theorem setDrive_drives (d : Nat) (x : Drive) : (s.setDrive d x).drives = s.drives.set d x := rfl
@[simp] theorem setDrive_resetAt (d : Nat) (x : Drive) : (s.setDrive d x).resetAt = s.resetAt := rfl
@[simp] theorem setDrive_freeCount (d : Nat) (x : Drive) : (s.setDrive d x).freeCount = s.freeCount := rfl
@[simp] theorem setDrive_idxDone (d : Nat) (x : Drive) : (s.setDrive d x).idxDone = s.idxDone := rfl
@[simp] theorem setDrive_hostData (d : Nat) (x : Drive) : (s.setDrive d x).hostData = s.hostData := rfl

@[simp] theorem issue_inbox (xs : List Input) : (s.issue xs).inbox = xs ++ s.inbox := rfl
@[simp] theorem issue_live (xs : List Input) : (s.issue xs).live = s.live := rfl
@[simp] theorem issue_pll (xs : List Input) : (s.issue xs).pll = s.pll := rfl
@[simp] theorem issue_par (xs : List Input) : (s.issue xs).par = s.par := rfl
@[simp] theorem issue_cfg (xs : List Input) : (s.issue xs).cfg = s.cfg := rfl
@[simp] theorem issue_fifo (xs : List Input) : (s.issue xs).fifo = s.fifo := rfl
@[simp] theorem issue_drives (xs : List Input) : (s.issue xs).drives = s.drives := rfl
@[simp] theorem issue_wakeups (xs : List Input) : (s.issue xs).wakeups = s.wakeups := rfl
@[simp] theorem issue_ctrl (xs : List Input) : (s.issue xs).ctrl = s.ctrl := rfl
@[simp] theorem issue_resetAt (xs : List Input) : (s.issue xs).resetAt = s.resetAt := rfl
@[simp] theorem issue_freeCount (xs : List Input) : (s.issue xs).freeCount = s.freeCount := rfl
@[simp] theorem issue_idxDone (xs : List Input) : (s.issue xs).idxDone = s.idxDone := rfl
@[simp] theorem issue_hostData (xs : List Input) : (s.issue xs).hostData = s.hostData := rfl

/-- A slot that exists reads as what was put into it. -/
theorem drive_setDrive (d : Nat) (x : Drive) (h : d < s.drives.length) : (s.setDrive d x).drive d = x := by
  simp [State.drive, State.setDrive, List.getD, h]

/-- The other slots keep what they hold. -/
theorem drive_setDrive_other (d e : Nat) (x : Drive) (h : e ≠ d) : (s.setDrive d x).drive e = s.drive e := by
  simp [State.drive, State.setDrive, List.getD, Ne.symm h]

@[simp] theorem finish_ok : finish (.ok s) = .next s := rfl
@[simp] theorem finish_fault (f : Fault) : finish (.error (.fault f)) = .fault f := rfl
@[simp] theorem finish_refused (r : Refusal) : finish (.error (.refused r)) = .refused r := rfl

/-- A next state comes from an operation that completed. -/
theorem finish_next {r : Res State} {t : State} (h : finish r = .next t) : r = .ok t := by
  match r with
  | .ok x => simpa [finish] using h
  | .error (.fault f) => simp [finish] at h
  | .error (.refused f) => simp [finish] at h

end Sys2Proof.Laws
end

