-- ==== Sys2Proof/Laws/Memory.lean ====
section
/-! SUPPORT. The medium's time axis: every operation keeps the canonical form, and what each leaves at a time
(20_memory R70 to R73). -/

namespace Sys2Proof.Laws

open Sys2Proof.Machine

/-- The canonical form says that the times rise strictly. -/
theorem wf_iff (m : Memory) : Memory.wf m = true ↔ m.Pairwise (· < ·) := by
  induction m with
  | nil => simp [Memory.wf]
  | cons a rest ih => simp [Memory.wf, ih]

/-- What `insert` adds. -/
theorem mem_insert (m : Memory) (x y : Nat) : y ∈ Memory.insert m x ↔ y = x ∨ y ∈ m := by
  induction m with
  | nil => simp [Memory.insert]
  | cons a rest ih =>
    simp only [Memory.insert]
    split
    · simp
    · split
      · next h => subst h; simp
      · simp only [List.mem_cons, ih]
        constructor
        · rintro (rfl | rfl | h)
          · simp
          · simp
          · simp [h]
        · rintro (rfl | rfl | h)
          · simp
          · simp
          · simp [h]

/-- `insert` keeps the canonical form. -/
theorem insert_wf (m : Memory) (x : Nat) (h : Memory.wf m = true) : Memory.wf (Memory.insert m x) = true := by
  rw [wf_iff] at *
  induction m with
  | nil => simp [Memory.insert]
  | cons a rest ih =>
    rw [List.pairwise_cons] at h
    simp only [Memory.insert]
    split
    · next hx =>
      refine List.pairwise_cons.2 ⟨?_, List.pairwise_cons.2 h⟩
      intro b hb
      rcases List.mem_cons.1 hb with rfl | hb
      · exact hx
      · exact Nat.lt_trans hx (h.1 b hb)
    · split
      · exact List.pairwise_cons.2 h
      · next h1 h2 =>
        refine List.pairwise_cons.2 ⟨?_, ih h.2⟩
        intro b hb
        rcases (mem_insert rest x b).1 hb with rfl | hb
        · omega
        · exact h.1 b hb

/-- A fold of `insert` keeps the canonical form. -/
theorem foldl_insert_wf (l : List Nat) (m : Memory) (h : Memory.wf m = true) :
    Memory.wf (l.foldl Memory.insert m) = true := by
  induction l generalizing m with
  | nil => exact h
  | cons a rest ih => exact ih _ (insert_wf m a h)

/-- What a fold of `insert` holds. -/
theorem mem_foldl_insert (l : List Nat) (m : Memory) (y : Nat) :
    y ∈ l.foldl Memory.insert m ↔ y ∈ l ∨ y ∈ m := by
  induction l generalizing m with
  | nil => simp
  | cons a rest ih =>
    rw [List.foldl_cons, ih, mem_insert, List.mem_cons]
    constructor
    · rintro (h | rfl | h) <;> simp [*]
    · rintro ((rfl | h) | h) <;> simp [*]

/-- `filter` keeps the canonical form. -/
theorem filter_wf (m : Memory) (p : Nat → Bool) (h : Memory.wf m = true) : Memory.wf (m.filter p) = true := by
  rw [wf_iff] at *
  exact h.filter p

/-- MediumWrite keeps the canonical form. -/
theorem writeSpan_wf (m : Memory) (s : Nat) (e : Time) (l : List Nat) (h : Memory.wf m = true) :
    Memory.wf (m.writeSpan s e l) = true :=
  foldl_insert_wf l _ (filter_wf m _ h)

/-- A list of times put in order is in canonical form. -/
theorem ofTimes_wf (l : List Nat) : Memory.wf (Memory.ofTimes l) = true := foldl_insert_wf l [] rfl

/-- What a medium holds after MediumWrite: the new times, and the old ones outside the span (20_memory R72). -/
theorem mem_writeSpan (m : Memory) (s : Nat) (e : Time) (l : List Nat) (y : Nat) :
    y ∈ m.writeSpan s e l ↔ y ∈ l ∨ (y ∈ m ∧ inSpan s e y = false) := by
  simp [Memory.writeSpan, mem_foldl_insert]

/-- MediumNext is strict: it gives a listed time after `t` (20_memory R71). -/
theorem next_spec {m : Memory} {t x : Nat} (h : m.next t = .ticks x) : x ∈ m ∧ t < x := by
  induction m with
  | nil => simp [Memory.next] at h
  | cons a rest ih =>
    simp only [Memory.next] at h
    split at h
    · next hlt => cases h; simp [hlt]
    · exact ⟨List.mem_cons_of_mem _ (ih h).1, (ih h).2⟩

/-- NEVER means that no listed time lies after `t`. -/
theorem next_never {m : Memory} {t : Nat} (h : m.next t = .never) : ∀ y ∈ m, y ≤ t := by
  induction m with
  | nil => simp
  | cons a rest ih =>
    simp only [Memory.next] at h
    split at h
    · cases h
    · next hlt =>
      intro y hy
      rcases List.mem_cons.1 hy with rfl | hy
      · omega
      · exact ih h y hy

/-- On a medium in canonical form MediumNext gives the least of them. -/
theorem next_least {m : Memory} {t x : Nat} (hw : Memory.wf m = true) (h : m.next t = .ticks x) :
    ∀ y ∈ m, t < y → x ≤ y := by
  rw [wf_iff] at hw
  induction m with
  | nil => simp
  | cons a rest ih =>
    rw [List.pairwise_cons] at hw
    simp only [Memory.next] at h
    split at h
    · cases h
      intro y hy _
      rcases List.mem_cons.1 hy with rfl | hy
      · exact Nat.le_refl _
      · exact Nat.le_of_lt (hw.1 y hy)
    · next hlt =>
      intro y hy hty
      rcases List.mem_cons.1 hy with rfl | hy
      · exact absurd hty hlt
      · exact ih hw.2 h y hy hty

/-- A write to a medium keeps the canonical form of its flux and does not touch its index. -/
theorem medium_write_wf (m : Medium) (b : Nat) (e : Time) (l : List Nat) (h : Memory.wf m.flux = true) :
    Memory.wf (m.write b e l).flux = true ∧ (m.write b e l).index = m.index := by
  unfold Medium.write
  split
  · exact ⟨writeSpan_wf _ _ _ _ h, rfl⟩
  · exact ⟨h, rfl⟩

/-- A protected or absent medium is not written (20_memory R72). -/
theorem medium_write_protected (m : Medium) (b : Nat) (e : Time) (l : List Nat)
    (h : m.present = false ∨ m.wp = true) : m.write b e l = m := by
  unfold Medium.write
  rcases h with h | h <;> simp [h]

/-- The media of the machine after reset are in canonical form. -/
theorem reset_media_wf :
    ∀ d ∈ State.reset.drives, Memory.wf d.med.flux = true ∧ Memory.wf d.med.index = true := by decide

end Sys2Proof.Laws
end

