-- ==== Sys2Proof/Laws/Ops.lean ====
section
/-! SUPPORT. For each shared operation, once, everything it can do. -/

namespace Sys2Proof.Laws

open Sys2Proof.Machine

/-- COMMIT that completes: not in write mode, an empty span, or the span written (41_write_encoder R175). -/
theorem commitTo_cases {tm : Time} {s s' : State} (h : commitTo tm s = .ok s') :
    (s.pll.writeStart = .never ∧ s' = s) ∨
    (∃ b, s.pll.writeStart = .ticks b ∧ tm = .ticks b ∧ s' = s) ∨
    (∃ b, s.pll.writeStart = .ticks b ∧ tm ≠ .ticks b ∧ Time.lt (.ticks b) tm = true ∧
      (∀ x ∈ s.pll.wbuf, Time.lt x tm = true) ∧
      s' = (mediumWrite b tm (tickTimes s.pll.wbuf) s).setPll (s.pll.startWriting tm)) := by
  unfold commitTo at h
  split at h
  · next hn => exact .inl ⟨hn, by cases h; rfl⟩
  · next b hb =>
    split at h
    · next he => exact .inr (.inl ⟨b, hb, he, by cases h; rfl⟩)
    · next he =>
      split at h
      · next hc =>
        simp only [Bool.and_eq_true, List.all_eq_true] at hc
        exact .inr (.inr ⟨b, hb, he, hc.1, hc.2, by cases h; rfl⟩)
      · cases h

/-- COMMIT outside write mode does nothing (41_write_encoder R175). -/
theorem commitTo_never {s : State} (tm : Time) (h : s.pll.writeStart = .never) : commitTo tm s = .ok s := by
  simp [commitTo, h]

/-- STOP_WRITING that completes is a COMMIT that completes, and leaves write mode (41_write_encoder R176). -/
theorem stopWritingAt_cases {tm : Time} {s s' : State} (h : stopWritingAt tm s = .ok s') :
    ∃ c, commitTo tm s = .ok c ∧ s' = c.setPll { c.pll with writeStart := .never } := by
  unfold stopWritingAt at h
  cases hc : commitTo tm s with
  | error e => simp [hc, Except.map] at h
  | ok c => exact ⟨c, rfl, by simpa [hc, Except.map] using h.symm⟩

/-- CHECKPOINT that completes: `live.tm` is not ahead of `now`; what was written is committed if a drive is live; the
snapshot is the state after that (45_live_control R264). -/
theorem takeCheckpoint_cases {s s' : State} (h : takeCheckpoint s = .ok s') :
    (∀ t, s.live.tm = .ticks t → t ≤ s.now) ∧
    ∃ c, (s.live.drive = none ∧ c = s ∨ s.live.drive ≠ none ∧ commitTo s.live.tm s = .ok c) ∧
      s' = { c with snap := ⟨c.live, c.pll⟩ } := by
  have key : ∀ tm : Time, ((if s.live.drive.isSome then commitTo tm s else .ok s).map
      fun c : State => { c with snap := ⟨c.live, c.pll⟩ }) = .ok s' →
      ∃ c, (s.live.drive = none ∧ c = s ∨ s.live.drive ≠ none ∧ commitTo tm s = .ok c) ∧
        s' = { c with snap := ⟨c.live, c.pll⟩ } := by
    intro tm h
    cases hd : s.live.drive with
    | none =>
      simp only [hd, Option.isSome_none, Bool.false_eq_true, if_false, Except.map] at h
      exact ⟨s, .inl ⟨rfl, rfl⟩, by cases h; rfl⟩
    | some d =>
      simp only [hd, Option.isSome_some, if_true] at h
      cases hc : commitTo tm s with
      | error e => simp [hc, Except.map] at h
      | ok c => exact ⟨c, .inr ⟨by simp, rfl⟩, by simpa [hc, Except.map] using h.symm⟩
  unfold takeCheckpoint at h
  split at h
  · next hn => exact ⟨by simp [hn], by rw [hn]; exact key _ h⟩
  · next t ht =>
    split at h
    · next hle =>
      refine ⟨fun t' h' => ?_, by rw [ht]; exact key _ h⟩
      rw [ht] at h'
      cases h'
      exact hle
    · cases h

/-- The transition to IDLE that completes: STOP_WRITING, then IDLE with no drive and `live.tm` NEVER
(60_exceptions R363). -/
theorem enterIdle_cases {s s' : State} (h : enterIdle s = .ok s') :
    ∃ c, stopWritingAt s.live.tm s = .ok c ∧
      s' = { c with live := { c.live with state := .idle, drive := none, tm := .never } } := by
  unfold enterIdle at h
  cases hc : stopWritingAt s.live.tm s with
  | error e => simp [hc, Except.map] at h
  | ok c => exact ⟨c, rfl, by simpa [hc, Except.map] using h.symm⟩

/-- LIVE_DELAY that completes: a wake-up is requested, or the transition is made at once (45_live_control R266). -/
theorem delayTo_cases {st : LiveState} {s s' : State} (h : delayTo st s = .ok s') :
    (s.live.tm = .never ∧ s' = { s with live := { s.live with nextState := some st } }) ∨
    (∃ t, s.live.tm = .ticks t ∧ s.now < t ∧
      s' = requestWake (.ticks t) { s with live := { s.live with nextState := some st } }) ∨
    (s.live.tm = .ticks s.now ∧ syncConfirmed { s with live := { s.live with nextState := some st } } = .ok s') := by
  unfold delayTo at h
  split at h
  · next hn => exact .inl ⟨hn, by cases h; rfl⟩
  · next t ht =>
    split at h
    · cases h
    · next h1 =>
      split at h
      · next h2 => subst h2; exact .inr (.inr ⟨ht, h⟩)
      · next h2 => exact .inr (.inl ⟨t, ht, by omega, by cases h; rfl⟩)

/-- LIVE_DELAY ahead of real time (45_live_control R266). -/
theorem delayTo_ahead {st : LiveState} {s : State} {t : Nat} (ht : s.live.tm = .ticks t) (h : s.now < t) :
    delayTo st s = .ok (requestWake (.ticks t) { s with live := { s.live with nextState := some st } }) := by
  have h1 : ¬ t < s.now := by omega
  have h2 : ¬ t = s.now := by omega
  simp [delayTo, ht, h1, h2]

/-- GET_NEXT_BIT that gives a bit moves the time cursor to the end of the cell, which is not after the limit, and touches
neither the write registers nor PLL_SET_CLOCK's constants (40_pll R154, R159). -/
theorem getNextBit_cases {par : Params} {edge limit : Time} {p p' : Pll} {b : Bool}
    (h : p.getNextBit par edge limit = some (b, p')) :
    p'.ctime = p.cellEnd ∧ Time.lt limit p.cellEnd = false ∧ p'.wbuf = p.wbuf ∧
    p'.writeStart = p.writeStart ∧ p'.nominal = p.nominal ∧ p'.adjBase = p.adjBase ∧
    p'.minPeriod = p.minPeriod ∧ p'.maxPeriod = p.maxPeriod ∧ p'.maxAdj = p.maxAdj := by
  unfold Pll.getNextBit at h
  simp only at h
  split at h
  · cases h
  · next hl =>
    have hl : Time.lt limit p.cellEnd = false := by simpa using hl
    split at h
    · cases h; simp [hl, Pll.coast]
    · cases h; simp [hl, Pll.coast]
    · next hc =>
      split at h
      · cases h; simp [hl, Pll.coast]
      · cases h; exact ⟨by simp [hc, Pll.lockOn], by simpa [hc] using hl, by simp [Pll.lockOn]⟩

/-- READ_ONE_BIT that reads a cell (43_read_states R200). -/
theorem readCell_cases {src : Option Bool} {limit : Time} {s s' : State} (h : readCell src limit s = some s') :
    ∃ b p, s.pll.getNextBit s.par (edgeOf src s) limit = some (b, p) ∧
      s' = { s with pll := p, live := s.live.shiftIn s.par b p.ctime } := by
  unfold readCell at h
  split at h
  · cases h
  · next b p hb => exact ⟨b, p, hb, by cases h; rfl⟩

/-- WRITE_NEXT_BIT that completes (41_write_encoder R173). -/
theorem writeNextBit_cases {par : Params} {bit ok : Bool} {limit : Time} {p p' : Pll}
    (h : p.writeNextBit par bit limit = .ok (ok, p')) :
    (ok = false ∧ p' = p.enterWrite ∧ Time.lt limit (p.enterWrite.ctime.add p.enterWrite.period) = true) ∨
    (ok = true ∧ bit = false ∧
      p' = { p.enterWrite with ctime := p.enterWrite.ctime.add p.enterWrite.period }) ∨
    (ok = true ∧ bit = true ∧ p.enterWrite.wbuf.length < par.wbufLen ∧
      p' = { p.enterWrite with
        ctime := p.enterWrite.ctime.add p.enterWrite.period
        wbuf := p.enterWrite.wbuf ++ [p.enterWrite.ctime.add (p.enterWrite.period / 2 : Nat)] }) := by
  unfold Pll.writeNextBit at h
  simp only at h
  split at h
  · next hl => cases h; exact .inl ⟨rfl, rfl, hl⟩
  · split at h
    · next hb =>
      split at h
      · cases h
      · next hlen => cases h; exact .inr (.inr ⟨rfl, hb, by omega, rfl⟩)
    · next hb => cases h; exact .inr (.inl ⟨rfl, by simpa using hb, rfl⟩)

/-- FifoPush: the byte goes to the tail when there is room (20_memory R81). -/
theorem fifoPush_cases {b : Byte} {s s' : State} (h : fifoPush b s = some s') :
    s.fifo.length < s.par.fifoSize ∧ s' = s.setFifo (s.fifo ++ [b]) := by
  unfold fifoPush at h
  split at h
  · next hl => cases h; exact ⟨hl, rfl⟩
  · cases h

/-- FifoPop: the head byte (20_memory R82). -/
theorem fifoPop_cases {b : Byte} {s s' : State} (h : fifoPop s = some (b, s')) :
    ∃ q, s.fifo = b :: q ∧ s' = s.setFifo q := by
  unfold fifoPop at h
  split at h
  · cases h
  · next c q hq => cases h; exact ⟨q, hq, rfl⟩

/-- PLL_SET_CLOCK that completes (40_pll R150). -/
theorem setClock_cases {period : Nat} {s s' : State} (h : setClock period s = .ok s') :
    2 ≤ period ∧ s' = s.setPll (s.pll.setClock s.par period) := by
  unfold setClock at h
  split at h
  · cases h
  · next hp => cases h; exact ⟨by omega, rfl⟩

/-- LIVE_START that completes was allowed (45_live_control R261). -/
theorem start_allowed {d : Nat} {st : LiveState} {s s' : State} (h : start d st s = .ok s') :
    s.live.drive = none ∧ d < s.par.ndrives ∧ isEntryState st = true ∧ 2 ≤ s.cfg.cellNominal := by
  unfold start at h
  split at h
  · cases h
  · next h1 =>
    split at h
    · cases h
    · next h2 =>
      split at h
      · cases h
      · next h3 =>
        split at h
        · cases h
        · next h4 =>
          cases hc : setClock s.cfg.cellNominal (s.setLive (freshLive s.now d st)) with
          | error e => simp [hc, bind, Except.bind] at h
          | ok c =>
            exact ⟨by simpa using h1, by omega, by simpa using h3, (setClock_cases hc).1⟩

/-- A write of `cfg` while no drive is live stores it and nothing else (70_reset_and_hazards R402). -/
theorem writeCfg_idle {c : Cfg} {s : State} (h : s.live.drive = none) : writeCfg c s = { s with cfg := c } := by
  simp [writeCfg, cfgWriteAllowed, h]

/-- A write of `cfg` that changes nothing. -/
theorem writeCfg_same (s : State) : writeCfg s.cfg s = s := by simp [writeCfg, cfgWriteAllowed]

/-- All that a write of `cfg` does: it stores the configuration, and where R402 forbids it the run's data are free. -/
theorem writeCfg_cases (c : Cfg) (s : State) :
    (cfgWriteAllowed c s = true ∧ writeCfg c s = { s with cfg := c }) ∨
    (cfgWriteAllowed c s = false ∧ writeCfg c s = disturb { s with cfg := c }) := by
  unfold writeCfg
  cases h : cfgWriteAllowed c s <;> simp

@[simp] theorem writeCfg_cfg (c : Cfg) (s : State) : (writeCfg c s).cfg = c := by
  rcases writeCfg_cases c s with ⟨_, h⟩ | ⟨_, h⟩ <;> simp only [h, disturb]
@[simp] theorem writeCfg_pll (c : Cfg) (s : State) : (writeCfg c s).pll = s.pll := by
  rcases writeCfg_cases c s with ⟨_, h⟩ | ⟨_, h⟩ <;> simp only [h, disturb]
@[simp] theorem writeCfg_par (c : Cfg) (s : State) : (writeCfg c s).par = s.par := by
  rcases writeCfg_cases c s with ⟨_, h⟩ | ⟨_, h⟩ <;> simp only [h, disturb]
@[simp] theorem writeCfg_now (c : Cfg) (s : State) : (writeCfg c s).now = s.now := by
  rcases writeCfg_cases c s with ⟨_, h⟩ | ⟨_, h⟩ <;> simp only [h, disturb]
@[simp] theorem writeCfg_fifo (c : Cfg) (s : State) : (writeCfg c s).fifo = s.fifo := by
  rcases writeCfg_cases c s with ⟨_, h⟩ | ⟨_, h⟩ <;> simp only [h, disturb]
@[simp] theorem writeCfg_drives (c : Cfg) (s : State) : (writeCfg c s).drives = s.drives := by
  rcases writeCfg_cases c s with ⟨_, h⟩ | ⟨_, h⟩ <;> simp only [h, disturb]
@[simp] theorem writeCfg_ctrl (c : Cfg) (s : State) : (writeCfg c s).ctrl = s.ctrl := by
  rcases writeCfg_cases c s with ⟨_, h⟩ | ⟨_, h⟩ <;> simp only [h, disturb]
@[simp] theorem writeCfg_inbox (c : Cfg) (s : State) : (writeCfg c s).inbox = s.inbox := by
  rcases writeCfg_cases c s with ⟨_, h⟩ | ⟨_, h⟩ <;> simp only [h, disturb]
@[simp] theorem writeCfg_wakeups (c : Cfg) (s : State) : (writeCfg c s).wakeups = s.wakeups := by
  rcases writeCfg_cases c s with ⟨_, h⟩ | ⟨_, h⟩ <;> simp only [h, disturb]

/-- A state row out of its state executes nothing (60_exceptions R364). -/
theorem inState_out {st : LiveState} {rule : State → Res (State × OpOutcome)} {s : State}
    (h : s.live.state ≠ st ∨ s.live.nextState ≠ none) : inState st rule s = .ok (s, .notRunning) := by
  have : ¬(s.live.state = st ∧ s.live.nextState = none) := by rcases h with h | h <;> simp [h]
  rw [inState, if_neg this]

/-- A state row in its state runs its rule. -/
theorem inState_in {st : LiveState} {rule : State → Res (State × OpOutcome)} {s : State}
    (h1 : s.live.state = st) (h2 : s.live.nextState = none) : inState st rule s = rule s := by
  rw [inState, if_pos ⟨h1, h2⟩]

end Sys2Proof.Laws
end

