-- ==== Sys2Proof/Laws/Client.lean ====
section
/-! SUPPORT. The engine is moved by operations only: no step of the Command Engine, no alarm and no host access to the FIFO or
the data register touches the parameters, `live`, `pll` or `snap` (45_live_control R260). -/

namespace Sys2Proof.Laws

open Sys2Proof.Machine

/-- The parameters, the live context, the PLL and the checkpoint are as before. -/
def EngineKept (s t : State) : Prop := t.par = s.par ∧ t.live = s.live ∧ t.pll = s.pll ∧ t.snap = s.snap

theorem EngineKept.refl (s : State) : EngineKept s s := ⟨rfl, rfl, rfl, rfl⟩

theorem EngineKept.trans {a b c : State} (h : EngineKept a b) (k : EngineKept b c) : EngineKept a c :=
  ⟨k.1.trans h.1, k.2.1.trans h.2.1, k.2.2.1.trans h.2.2.1, k.2.2.2.trans h.2.2.2⟩

/-! The updates that everything below is made of. -/

theorem setCtrl_kept (c : Controller) (s : State) : EngineKept s (s.setCtrl c) := ⟨rfl, rfl, rfl, rfl⟩
theorem setJob_kept (j : Job) (s : State) : EngineKept s (s.setJob j) := ⟨rfl, rfl, rfl, rfl⟩
theorem setDrive_kept (u : Nat) (d : Drive) (s : State) : EngineKept s (s.setDrive u d) := ⟨rfl, rfl, rfl, rfl⟩
theorem setSlot_kept (u : Nat) (m : MainState) (b : SubState) (s : State) : EngineKept s (s.setSlot u m b) :=
  ⟨rfl, rfl, rfl, rfl⟩
theorem issue_kept (l : List Input) (s : State) : EngineKept s (s.issue l) := ⟨rfl, rfl, rfl, rfl⟩
theorem answer_kept (b : Byte) (s : State) : EngineKept s (answer b s) := ⟨rfl, rfl, rfl, rfl⟩
theorem answerFree_kept (s : State) : EngineKept s (answerFree s) := ⟨rfl, rfl, rfl, rfl⟩
theorem toResult_kept (k : JobKind) (b : List Byte) (s : State) : EngineKept s (toResult k b s) := ⟨rfl, rfl, rfl, rfl⟩
theorem pendStatus_kept (u : Nat) (b : Byte) (s : State) : EngineKept s (pendStatus u b s) := ⟨rfl, rfl, rfl, rfl⟩
theorem setResult_kept (a b c : Byte) (d : List Byte) (s : State) : EngineKept s (setResult a b c d s) :=
  ⟨rfl, rfl, rfl, rfl⟩
theorem searchHeader_kept (s : State) : EngineKept s (searchHeader s) := ⟨rfl, rfl, rfl, rfl⟩
theorem setSearchRetries_kept (n : Nat) (s : State) : EngineKept s (setSearchRetries n s) := ⟨rfl, rfl, rfl, rfl⟩
theorem abortThen_kept (c : ClientStep) (s : State) : EngineKept s (abortThen c s) := issue_kept _ s
theorem setTcDone_kept (s : State) : EngineKept s (setTcDone s) := ⟨rfl, rfl, rfl, rfl⟩
theorem reach_kept (n : Nat) (s : State) : EngineKept s (reach n s) := ⟨rfl, rfl, rfl, rfl⟩

theorem takeFrees_kept (n : Nat) : ∀ s : State, EngineKept s (takeFrees n s).2 := by
  induction n with
  | zero => exact EngineKept.refl
  | succ n ih =>
    intro s
    simpa [takeFrees, takeFree, EngineKept] using ih { s with freeCount := s.freeCount + 1 }

/-! The end of a command. -/

theorem beginHeadUnload_kept (s : State) : EngineKept s (beginHeadUnload s) := by
  unfold beginHeadUnload
  split <;> exact ⟨rfl, rfl, rfl, rfl⟩

theorem beginHeadLoad_kept (m : MainState) (s : State) : EngineKept s (beginHeadLoad m s) := by
  unfold beginHeadLoad
  dsimp only
  split <;> exact ⟨rfl, rfl, rfl, rfl⟩

theorem enterResult_kept (s : State) : EngineKept s (enterResult s) := by
  have h := beginHeadUnload_kept (s.setSlot s.job.unit.toNat .idle .commandDone)
  exact ⟨h.1, h.2.1, h.2.2.1, h.2.2.2⟩

theorem endJob_kept (a b c : Byte) (d : List Byte) (s : State) : EngineKept s (endJob a b c d s) :=
  (setResult_kept a b c d s).trans (enterResult_kept _)

theorem endTransfer_kept (a b c : Byte) (d : List Byte) (s : State) : EngineKept s (endTransfer a b c d s) := by
  unfold endTransfer
  dsimp only
  split <;> exact ⟨rfl, rfl, rfl, rfl⟩

theorem resultChrn_kept (s : State) : EngineKept s (resultChrn s).2 := by
  unfold resultChrn
  split
  · exact takeFrees_kept 4 s
  · exact .refl s

theorem endEarly_kept (a b c : Byte) (s : State) : EngineKept s (endEarly a b c s) :=
  (resultChrn_kept s).trans (endJob_kept _ _ _ _ _)

theorem endUndescribed_kept (s : State) : EngineKept s (endUndescribed s) :=
  (takeFrees_kept 7 s).trans (endTransfer_kept _ _ _ _ _)

theorem complete_kept (a b c : Byte) (s : State) : EngineKept s (complete a b c s) := by
  unfold complete
  split
  · exact (resultChrn_kept s).trans (endTransfer_kept _ _ _ _ _)
  · exact endEarly_kept a b c s

/-! A finished run. -/

theorem beginSearch_kept (s : State) : EngineKept s (beginSearch s) :=
  ((setJob_kept _ s).trans (setSearchRetries_kept _ _)).trans (searchHeader_kept _)

theorem retrySearch_kept (s : State) : EngineKept s (retrySearch s) :=
  (setSearchRetries_kept _ s).trans (searchHeader_kept _)

theorem beginField_kept (s : State) : EngineKept s (beginField s) :=
  ((setSlot_kept _ _ _ s).trans (setJob_kept _ _)).trans (issue_kept _ _)

theorem sectorDone_kept (s : State) : EngineKept s (sectorDone s) := by
  unfold sectorDone
  generalize advance s.job = a
  obtain ⟨j, done⟩ := a
  dsimp only
  split
  · exact (setJob_kept j s).trans (endTransfer_kept _ _ _ _ _)
  · split
    · exact (setJob_kept j s).trans (endTransfer_kept _ _ _ _ _)
    · exact (setJob_kept j s).trans (beginSearch_kept _)

theorem evaluateId_kept (s : State) : EngineKept s (evaluateId s) := by
  unfold evaluateId
  dsimp only
  split
  · exact endJob_kept _ _ _ _ s
  · split
    · exact beginField_kept s
    · exact (setJob_kept _ s).trans (retrySearch_kept _)

theorem evaluateData_kept (s : State) : EngineKept s (evaluateData s) := by
  unfold evaluateData
  dsimp only
  split
  · split
    · exact endJob_kept _ _ _ _ s
    · exact sectorDone_kept s
  · split
    · exact endJob_kept _ _ _ _ s
    · split
      · exact endJob_kept _ _ _ _ s
      · split
        · exact endJob_kept _ _ _ _ s
        · split
          · exact endTransfer_kept _ _ _ _ s
          · exact sectorDone_kept s

theorem evaluate_kept (s : State) : EngineKept s (evaluate s) := by
  unfold evaluate
  split
  · exact evaluateId_kept s
  · exact evaluateData_kept s
  · exact .refl s

theorem proceed_kept (s : State) : EngineKept s (proceed s) := by
  unfold proceed
  split
  · exact evaluate_kept s
  · exact issue_kept _ s

/-! The steps of the Command Engine. -/

theorem completeAtTc_kept (s : State) : EngineKept s (completeAtTc s) := by
  unfold completeAtTc
  dsimp only
  exact (setTcDone_kept s).trans (abortThen_kept _ _)

theorem afterIndex_kept (s : State) : EngineKept s (afterIndex s) := by
  unfold afterIndex
  dsimp only
  split
  · exact (setJob_kept _ s).trans (issue_kept _ _)
  · exact abortThen_kept _ s
  · split
    · exact (setJob_kept _ s).trans (abortThen_kept _ _)
    · exact (setJob_kept _ s).trans (proceed_kept _)
  · exact proceed_kept s

theorem afterTc_kept (s : State) : EngineKept s (afterTc s) := by
  unfold afterTc
  split
  · split
    · exact .refl s
    · exact completeAtTc_kept s
  · exact .refl s
  · exact proceed_kept s
  · exact (setTcDone_kept s).trans (abortThen_kept _ _)
  · exact completeAtTc_kept s
  · exact (setTcDone_kept s).trans (proceed_kept _)
  · split
    · exact issue_kept _ s
    · split
      · exact (setTcDone_kept s).trans (issue_kept _ _)
      · exact (setTcDone_kept s).trans (issue_kept _ _)

theorem afterNotReady_kept (d : Nat) (s : State) : EngineKept s (afterNotReady d s) := abortThen_kept _ s

theorem headLoaded_kept (s : State) : EngineKept s (headLoaded s) := by
  unfold headLoaded
  dsimp only
  split
  · exact (setSlot_kept _ _ _ s).trans (issue_kept _ _)
  · split
    · exact (setSlot_kept _ _ _ s).trans (setJob_kept _ _)
    · exact (setSlot_kept _ _ _ s).trans (issue_kept _ _)

theorem formatDone_kept (s : State) : EngineKept s (formatDone s) := by
  unfold formatDone
  split <;> exact complete_kept _ _ _ s

/-- No step of the Command Engine touches the engine. -/
theorem clientStep_kept (c : ClientStep) (s : State) : EngineKept s (clientStep c s) := by
  unfold clientStep
  split
  · split
    · exact evaluate_kept s
    · exact .refl s
  · exact proceed_kept s
  · exact afterIndex_kept s
  · exact afterTc_kept s
  · exact afterNotReady_kept _ s
  · exact headLoaded_kept s
  · exact beginSearch_kept s
  · exact complete_kept _ _ _ s
  · exact formatDone_kept s
  · exact enterResult_kept s
  · exact pendStatus_kept _ _ s
  · exact endUndescribed_kept s

/-! Seeks and alarms. -/

theorem seekDone_kept (u : Nat) (b : Byte) (s : State) : EngineKept s (seekDone u b s) :=
  (setDrive_kept _ _ s).trans (pendStatus_kept _ _ _)

theorem interruptSeek_kept (u : Nat) (s : State) : EngineKept s (interruptSeek u s) := by
  unfold interruptSeek
  split
  · exact seekDone_kept _ _ s
  · exact .refl s

theorem stepPulse_kept (u : Nat) (out : Bool) (s : State) : EngineKept s (stepPulse u out s) := ⟨rfl, rfl, rfl, rfl⟩

theorem seekPulse_kept (u : Nat) (s : State) : EngineKept s (seekPulse u s) :=
  (setDrive_kept _ _ s).trans (stepPulse_kept _ _ _)

theorem recalibrateStep_kept (u : Nat) (s : State) : EngineKept s (recalibrateStep u s) := by
  unfold recalibrateStep
  dsimp only
  split
  · exact (setDrive_kept _ _ s).trans (seekDone_kept _ _ _)
  · split
    · exact seekDone_kept _ _ s
    · exact stepPulse_kept _ _ s

theorem seekStep_kept (u : Nat) (s : State) : EngineKept s (seekStep u s) := by
  unfold seekStep
  dsimp only
  split
  · exact seekDone_kept _ _ s
  · exact seekPulse_kept _ s

theorem seekTick_kept (u : Nat) (s : State) : EngineKept s (seekTick u s) := by
  unfold seekTick
  dsimp only
  split
  · exact ((setDrive_kept _ _ s).trans (setDrive_kept _ _ _)).trans (recalibrateStep_kept u _)
  · exact (setDrive_kept _ _ s).trans (seekStep_kept u _)
  · exact setDrive_kept _ _ s

theorem beginSeek_kept (m : MainState) (u : BitVec 2) (g : Byte) (s : State) : EngineKept s (beginSeek m u g s) := by
  have h : EngineKept s (toCommand (interruptSeek u.toNat s)) := (interruptSeek_kept _ s).trans ⟨rfl, rfl, rfl, rfl⟩
  unfold beginSeek
  dsimp only
  split
  · exact h.trans (seekDone_kept _ _ _)
  · split
    · exact (h.trans (setDrive_kept _ _ _)).trans (recalibrateStep_kept _ _)
    · exact (h.trans (setDrive_kept _ _ _)).trans (seekStep_kept _ _)

theorem headTick_kept (s : State) : EngineKept s (headTick s) := by
  unfold headTick
  dsimp only
  split
  · exact (setCtrl_kept _ s).trans (issue_kept _ _)
  · exact (setCtrl_kept _ s).trans (setCtrl_kept _ _)

/-- No alarm touches the engine: a wake-up and an index pulse issue LIVE_SYNC, which comes as a request. -/
theorem sound_kept (n : Nat) (a : Alarm) (s : State) : EngineKept s (sound n a s) := by
  unfold sound
  split
  · exact ⟨rfl, rfl, rfl, rfl⟩
  · exact ⟨rfl, rfl, rfl, rfl⟩
  · exact (reach_kept _ s).trans (headTick_kept _)
  · exact (reach_kept _ s).trans (seekTick_kept _ _)

/-! The host's accesses. -/

theorem hostPush_kept (v : Byte) (s : State) : EngineKept s (hostPush v s) := by
  unfold hostPush
  split
  · cases h : fifoPush v s with
    | none => exact .refl s
    | some t =>
      obtain ⟨-, rfl⟩ := fifoPush_cases h
      exact ⟨rfl, rfl, rfl, rfl⟩
  · exact .refl s

theorem drained_kept (s : State) : EngineKept s (drained s) := by
  unfold drained
  split
  · exact enterResult_kept s
  · exact .refl s

theorem hostPop_kept (s : State) : EngineKept s (hostPop s) := by
  unfold hostPop
  split
  · split
    · next b t h =>
      obtain ⟨q, -, rfl⟩ := fifoPop_cases h
      have k : EngineKept s (s.setFifo q) := ⟨rfl, rfl, rfl, rfl⟩
      exact (k.trans (answer_kept _ _)).trans (drained_kept _)
    · exact answerFree_kept s
  · exact answerFree_kept s

theorem readData_kept (s : State) : EngineKept s (readData s) := by
  unfold readData
  split
  · exact answerFree_kept s
  · split
    · exact hostPop_kept s
    · exact answerFree_kept s
  · unfold popResult
    split
    · exact answerFree_kept s
    · exact (setCtrl_kept _ s).trans (answer_kept _ _)
    · exact (setCtrl_kept _ s).trans (answer_kept _ _)

theorem writeData_kept (v : Byte) (s : State) : EngineKept s (writeData v s) := by
  unfold writeData
  split
  · exact .refl s
  · split
    · unfold commandByte
      dsimp only
      split
      · exact (setCtrl_kept _ s).trans (issue_kept _ _)
      · exact setCtrl_kept _ s
    · split
      · exact hostPush_kept v s
      · exact .refl s
    · exact .refl s

/-- A host read touches the engine in no register. -/
theorem hostRead_kept {off : Nat} {s t : State} (h : hostRead off s = .ok t) : EngineKept s t := by
  unfold hostRead at h
  split at h
  · cases h
    exact answer_kept _ s
  · cases h
    exact answer_kept _ s
  · cases h
    exact answer_kept _ s
  · cases h
    exact answer_kept _ s
  · cases h
    exact answer_kept _ s
  · cases h
    exact readData_kept s
  · cases h
    exact ⟨rfl, rfl, rfl, rfl⟩
  · cases h
    exact ⟨rfl, rfl, rfl, rfl⟩
  · cases h

end Sys2Proof.Laws
end

