-- ==== Sys2Proof/Laws/Codec.lean ====
section
/-! SUPPORT. The bits of words built from bits, and of words split into bytes (30_encoding R111 to R114). -/

namespace Sys2Proof.Laws

open Sys2Proof Sys2Proof.Machine

/-- Bit `i` of a number built from bits. -/
theorem getLsbD_fromBits (n : Nat) (f : Nat → Bool) (i : Nat) :
    (fromBits n f).getLsbD i = (decide (i < n) && f i) := by
  induction n with
  | zero => simp [fromBits]
  | succ n ih =>
    simp only [fromBits, BitVec.getLsbD_cons, ih]
    by_cases h : i = n
    · simp [h]
    · by_cases h2 : i < n
      · have : i < n + 1 := by omega
        simp [h, h2, this]
      · have : ¬ i < n + 1 := by omega
        simp [h, h2, this]

/-- The data cells of interleaved cells (30_encoding R112). -/
theorem dataByte_interleave (c d : Byte) : dataByte (interleave c d) = d := by
  apply BitVec.eq_of_getLsbD_eq
  intro i hi
  simp only [dataByte, interleave, getLsbD_fromBits]
  have : 2 * i < 16 := by omega
  simp [hi, this]

/-- The clock cells of interleaved cells (30_encoding R112). -/
theorem clockByte_interleave (c d : Byte) : clockByte (interleave c d) = c := by
  apply BitVec.eq_of_getLsbD_eq
  intro i hi
  simp only [clockByte, interleave, getLsbD_fromBits]
  have h1 : 2 * i + 1 < 16 := by omega
  have h2 : (2 * i + 1) / 2 = i := by omega
  simp [hi, h1, h2]

/-- A word is the cells it is made of. -/
theorem interleave_split (w : Word) : interleave (clockByte w) (dataByte w) = w := by
  apply BitVec.eq_of_getLsbD_eq
  intro i hi
  simp only [interleave, clockByte, dataByte, getLsbD_fromBits]
  have h1 : i / 2 < 8 := by omega
  by_cases h : i % 2 = 1
  · have h2 : 2 * (i / 2) + 1 = i := by omega
    simp [hi, h, h1, h2]
  · have h2 : 2 * (i / 2) = i := by omega
    simp [hi, h, h1, h2]

/-- A word is its two bytes. -/
theorem word_of_bytes (w : Word) : (w.extractLsb' 8 8 ++ w.extractLsb' 0 8 : BitVec 16) = w := by
  apply BitVec.eq_of_getLsbD_eq
  intro i hi
  rw [BitVec.getLsbD_append]
  by_cases h : i < 8
  · simp [h]
  · have h1 : i - 8 < 8 := by omega
    have h2 : 8 + (i - 8) = i := by omega
    simp [h, h1, h2]

/-- The five command bits of an opcode byte. -/
theorem command_bits (f : BitVec 3) (c : BitVec 5) : (f ++ c : BitVec 8).extractLsb' 0 5 = c := by
  apply BitVec.eq_of_getLsbD_eq
  intro i hi
  have h := BitVec.getLsbD_append (x := f) (y := c) (i := i)
  simp only [hi, if_true] at h
  simpa [hi] using h

/-- The three bits above the command bits. -/
theorem flag_bits (f : BitVec 3) (c : BitVec 5) : (f ++ c : BitVec 8).extractLsb' 5 3 = f := by
  apply BitVec.eq_of_getLsbD_eq
  intro i hi
  have h := BitVec.getLsbD_append (x := f) (y := c) (i := 5 + i)
  have h1 : ¬ 5 + i < 5 := by omega
  have h2 : 5 + i - 5 = i := by omega
  simp only [h1, if_false, h2] at h
  simpa [hi] using h

/-- A state's code is read back as the state (30_encoding R135). -/
theorem stateOfCode_stateCode (s : LiveState) : stateOfCode (stateCode s) = some s := by cases s <;> rfl

/-- A reserved operation code decodes to itself (30_encoding R139). -/
theorem decodeOp_reserved (code : Byte) (r : Request) (h : reservedOpCode code = true) :
    decodeOp code r = .ok (.reservedOp code) := by
  have h' : code.toNat = 0 ∨ 0x17 ≤ code.toNat := by
    simp only [reservedOpCode, Bool.or_eq_true, beq_iff_eq, decide_eq_true_eq] at h
    rcases h with rfl | h
    · exact .inl rfl
    · exact .inr h
  unfold decodeOp
  split <;> first | rfl | omega

/-- A state code of 17 or more is no state (30_encoding R139). -/
theorem stateOfCode_reserved {n : Nat} (h : 17 ≤ n) : stateOfCode n = none := by
  unfold stateOfCode
  split <;> first | rfl | omega

end Sys2Proof.Laws
end

