-- ==== Sys2Proof/Laws/Commands.lean ====
section
/-! SUPPORT. The Command Engine's shared operations: when a command is accepted, where its checks lead, what a slot's
change leaves alone. -/

namespace Sys2Proof.Laws

open Sys2Proof.Machine

/-- A command accepted: its effect on the state with the command buffer emptied and the terminal count flags cleared
(46_command_engine R290, R297). -/
theorem accepted_command {s : State} (f : State → State) (h : s.ctrl.phase = .command) (hr : heldInReset s = false) :
    accepted s f = .next ((f (writeCfg { s.cfg with tcDone := false }
      (s.setCtrl { s.ctrl with cmdBuf := [], tc := false }))).setOutcome .none) := by
  simp [accepted, h, hr]

/-- The clearing of `cfg.tc_done` at a command's start disturbs nothing when no drive is live or it is clear already
(70_reset_and_hazards R402). -/
theorem writeCfg_clear {s : State} (h : s.live.drive = none ∨ s.cfg.tcDone = false) :
    writeCfg { s.cfg with tcDone := false } s = { s with cfg := { s.cfg with tcDone := false } } := by
  rcases h with h | h
  · exact writeCfg_idle h
  · have hc : ({ s.cfg with tcDone := false } : Cfg) = s.cfg := by rw [← h]
    rw [hc, writeCfg_same]

/-- A command ignored (46_command_engine R310). -/
theorem accepted_ignored {s : State} (f : State → State) (h : s.ctrl.phase ≠ .command ∨ heldInReset s = true) :
    accepted s f = .next s := by
  have hn : ¬(s.ctrl.phase = .command ∧ heldInReset s = false) := by
    rcases h with h | h <;> simp [h]
  rw [accepted, if_neg hn]

/-- The unit number of a head/unit byte. -/
theorem unitOf_toNat (b : Byte) : (unitOf b).toNat = b.toNat % 4 := by
  simp [unitOf, BitVec.extractLsb']

/-- A slot that keeps its medium keeps every medium. -/
theorem setDrive_med (s : State) (u : Nat) (x : Drive) (hx : x.med = (s.drive u).med) (d : Nat) :
    ((s.setDrive u x).drive d).med = (s.drive d).med := by
  simp only [State.drive, State.setDrive, List.getD_eq_getElem?_getD, List.getElem?_set]
  split
  · split
    · subst_vars
      simpa [State.drive] using hx
    · rename_i h1 h2
      subst h1
      simp [h2]
  · rfl

/-- A pending status keeps every medium. -/
theorem pendStatus_med (u : Nat) (b : Byte) (s : State) (d : Nat) : ((pendStatus u b s).drive d).med = (s.drive d).med :=
  setDrive_med s u { s.drive u with pending := some (b ||| headUnit false (BitVec.ofNat 2 u)) } rfl d

/-- A seek that ends keeps every medium. -/
theorem seekDone_med (u : Nat) (b : Byte) (s : State) (d : Nat) : ((seekDone u b s).drive d).med = (s.drive d).med :=
  (pendStatus_med u b _ d).trans
    (setDrive_med s u { s.drive u with mainState := .idle, subState := .commandDone, stepAt := none } rfl d)

/-- A seek interrupted keeps every medium. -/
theorem interruptSeek_med (u : Nat) (s : State) (d : Nat) :
    ((interruptSeek u s).drive d).med = (s.drive d).med := by
  unfold interruptSeek
  split
  · exact seekDone_med u _ s d
  · rfl

/-- Interrupting a seek touches slots and INTRQ alone. -/
theorem interruptSeek_frame (u : Nat) (s : State) :
    interruptSeek u s = { s with
      drives := (interruptSeek u s).drives
      ctrl := { s.ctrl with intrq := s.ctrl.intrq || (s.drive u).seeking } } := by
  unfold interruptSeek
  split <;> rename_i h
  · simp [h, seekDone, pendStatus, raiseIntrq, State.setCtrl, State.setDrive]
  · simp [h]

/-- A drive that does not seek has no seek to interrupt. -/
theorem interruptSeek_idle {u : Nat} {s : State} (h : (s.drive u).seeking = false) : interruptSeek u s = s := by
  simp [interruptSeek, h]

/-- A drive that seeks: the seek is over, its status pending. -/
theorem interruptSeek_seeking {u : Nat} {s : State} (hu : u < s.drives.length) (hs : (s.drive u).seeking = true) :
    (interruptSeek u s).drive u = { s.drive u with
      mainState := .idle, subState := .commandDone, stepAt := none
      pending := some (st0Abnormal ||| st0SeekEnd ||| headUnit false (BitVec.ofNat 2 u)) } := by
  rw [interruptSeek, if_pos hs]
  simp [seekDone, pendStatus, raiseIntrq, State.setCtrl, State.setDrive, State.drive, hu]

/-- No other drive is touched. -/
theorem interruptSeek_other (u v : Nat) (s : State) (h : v ≠ u) : (interruptSeek u s).drive v = s.drive v := by
  unfold interruptSeek
  split
  · simp [seekDone, pendStatus, raiseIntrq, State.setCtrl, State.setDrive, State.drive, List.getElem?_set, Ne.symm h]
  · rfl

/-- The checks see the drive as it was before the command. -/
theorem mediumReady_begin (j : Job) (s : State) :
    mediumReady (beginJob j (interruptSeek j.unit.toNat s)) j.unit = mediumReady s j.unit := by
  have h : ((beginJob j (interruptSeek j.unit.toNat s)).drive j.unit.toNat).med = (s.drive j.unit.toNat).med :=
    interruptSeek_med _ s _
  have hp : (beginJob j (interruptSeek j.unit.toNat s)).par = s.par := by
    rw [interruptSeek_frame]
    rfl
  simp only [mediumReady, unitReady, h, hp]

/-- The drive is ready: the command goes on, unless it writes and the medium is protected (46_command_engine R305). -/
theorem checkDrive_ready {j : Job} {go : State → State} {s : State} (h : mediumReady s j.unit = true)
    (hw : ¬(j.kind.toMedium = true ∧ (s.drive j.unit.toNat).med.wp = true)) :
    checkDrive j go s = go (beginJob j (interruptSeek j.unit.toNat s)) := by
  have hm : ((beginJob j (interruptSeek j.unit.toNat s)).drive j.unit.toNat).med = (s.drive j.unit.toNat).med :=
    interruptSeek_med _ s _
  rw [← hm] at hw
  simp only [checkDrive, mediumReady_begin, h, if_neg hw]
  simp

/-- The drive is not ready, or holds no medium: the command is over (46_command_engine R305, 92 D49). -/
theorem checkDrive_not_ready {j : Job} {go : State → State} {s : State}
    (h : mediumReady s j.unit = false) :
    checkDrive j go s =
      endEarly (st0Abnormal ||| st0NotReady) 0 0 (beginJob j (interruptSeek j.unit.toNat s)) := by
  simp only [checkDrive, mediumReady_begin, h, if_true]

/-- The medium is protected and the command writes: it is over (46_command_engine R299). -/
theorem checkDrive_protected {j : Job} {go : State → State} {s : State}
    (h : mediumReady s j.unit = true)
    (hw : j.kind.toMedium = true ∧ (s.drive j.unit.toNat).med.wp = true) :
    checkDrive j go s = endEarly st0Abnormal st1NotWritable 0 (beginJob j (interruptSeek j.unit.toNat s)) := by
  have hm : ((beginJob j (interruptSeek j.unit.toNat s)).drive j.unit.toNat).med = (s.drive j.unit.toNat).med :=
    interruptSeek_med _ s _
  rw [← hm] at hw
  simp only [checkDrive, mediumReady_begin, h, if_pos hw]
  simp

/-- Naming the command family and the step in a slot keeps every medium. -/
theorem setSlot_med (s : State) (u : Nat) (m : MainState) (sub : SubState) (d : Nat) :
    ((s.setSlot u m sub).drive d).med = (s.drive d).med :=
  setDrive_med s u { s.drive u with mainState := m, subState := sub } rfl d

/-- The end of a command keeps every medium. -/
theorem enterResult_med (s : State) (d : Nat) : ((enterResult s).drive d).med = (s.drive d).med := by
  have h : ∀ x : State, (beginHeadUnload x).drive d = x.drive d := by
    intro x
    unfold beginHeadUnload
    split <;> rfl
  have h2 : (enterResult s).drive d =
      (beginHeadUnload (s.setSlot s.job.unit.toNat .idle .commandDone)).drive d := rfl
  rw [h2, h]
  exact setSlot_med s _ _ _ d

/-- The result bytes keep every medium. -/
theorem setResult_med (st0 st1 st2 : Byte) (chrn : List Byte) (s : State) (d : Nat) :
    ((setResult st0 st1 st2 chrn s).drive d).med = (s.drive d).med :=
  setDrive_med s s.job.unit.toNat
    { s.drive s.job.unit.toNat with st0 := st0 ||| headUnit s.job.hd s.job.unit } rfl d

/-- The end of a command at once keeps every medium. -/
theorem endJob_med (st0 st1 st2 : Byte) (chrn : List Byte) (s : State) (d : Nat) :
    ((endJob st0 st1 st2 chrn s).drive d).med = (s.drive d).med :=
  (enterResult_med _ d).trans (setResult_med st0 st1 st2 chrn s d)

/-- A header search keeps every medium. -/
theorem searchHeader_med (s : State) (d : Nat) : ((searchHeader s).drive d).med = (s.drive d).med :=
  setSlot_med s _ _ _ d

/-- Head loading keeps every medium. -/
theorem beginHeadLoad_med (m : MainState) (s : State) (d : Nat) :
    ((beginHeadLoad m s).drive d).med = (s.drive d).med := by
  have h : ((beginHeadLoad m s).drive d).med = ((s.setSlot s.job.unit.toNat m .unlisted).drive d).med := by
    unfold beginHeadLoad
    dsimp only
    split <;> rfl
  exact h.trans (setSlot_med s _ _ _ d)

/-- No status is pending: there is no first one. -/
theorem firstPending_none {ds : List Drive} (h : ∀ d ∈ ds, d.pending = none) : firstPending ds = none := by
  induction ds with
  | nil => rfl
  | cons d ds ih => simp [firstPending, h d (by simp), ih (fun x hx => h x (by simp [hx]))]

/-- A first pending status is there exactly when one is pending. -/
theorem firstPending_isSome (ds : List Drive) :
    (firstPending ds).isSome = true ↔ ∃ d ∈ ds, d.pending.isSome = true := by
  induction ds with
  | nil => simp [firstPending]
  | cons d ds ih => simp [firstPending]; split <;> simp_all

/-- The first pending status is that of the lowest drive number. -/
theorem firstPending_lowest {ds : List Drive} {x : Drive} {u : Nat} (hu : u < ds.length)
    (h : (ds.getD u x).pending.isSome = true) (hl : ∀ v < u, (ds.getD v x).pending = none) :
    firstPending ds = some u := by
  induction ds generalizing u with
  | nil => simp at hu
  | cons d ds ih =>
    cases u with
    | zero =>
      simp only [List.getD_cons_zero] at h
      simp [firstPending, h]
    | succ u =>
      have h0 := hl 0 (by omega)
      simp only [List.getD_cons_zero] at h0
      simp [firstPending, h0, ih (by simpa using hu) (by simpa using h) (fun v hv => by simpa using hl (v + 1) (by omega))]

/-! What the small updates of a command leave alone. -/

variable (s : State)

@[simp] theorem setSlot_live (u : Nat) (m : MainState) (sub : SubState) : (s.setSlot u m sub).live = s.live := by simp [State.setSlot]
@[simp] theorem setSlot_pll (u : Nat) (m : MainState) (sub : SubState) : (s.setSlot u m sub).pll = s.pll := by simp [State.setSlot]
@[simp] theorem setSlot_par (u : Nat) (m : MainState) (sub : SubState) : (s.setSlot u m sub).par = s.par := by simp [State.setSlot]
@[simp] theorem setSlot_now (u : Nat) (m : MainState) (sub : SubState) : (s.setSlot u m sub).now = s.now := by simp [State.setSlot]
@[simp] theorem setSlot_fifo (u : Nat) (m : MainState) (sub : SubState) : (s.setSlot u m sub).fifo = s.fifo := by simp [State.setSlot]
@[simp] theorem setSlot_cfg (u : Nat) (m : MainState) (sub : SubState) : (s.setSlot u m sub).cfg = s.cfg := by simp [State.setSlot]
@[simp] theorem setSlot_ctrl (u : Nat) (m : MainState) (sub : SubState) : (s.setSlot u m sub).ctrl = s.ctrl := by simp [State.setSlot]
@[simp] theorem setSlot_inbox (u : Nat) (m : MainState) (sub : SubState) : (s.setSlot u m sub).inbox = s.inbox := by simp [State.setSlot]

@[simp] theorem setJob_live (j : Job) : (s.setJob j).live = s.live := by simp [State.setJob]
@[simp] theorem setJob_pll (j : Job) : (s.setJob j).pll = s.pll := by simp [State.setJob]
@[simp] theorem setJob_par (j : Job) : (s.setJob j).par = s.par := by simp [State.setJob]
@[simp] theorem setJob_now (j : Job) : (s.setJob j).now = s.now := by simp [State.setJob]
@[simp] theorem setJob_fifo (j : Job) : (s.setJob j).fifo = s.fifo := by simp [State.setJob]
@[simp] theorem setJob_cfg (j : Job) : (s.setJob j).cfg = s.cfg := by simp [State.setJob]
@[simp] theorem setJob_drives (j : Job) : (s.setJob j).drives = s.drives := by simp [State.setJob]
@[simp] theorem setJob_inbox (j : Job) : (s.setJob j).inbox = s.inbox := by simp [State.setJob]

@[simp] theorem beginJob_live (j : Job) : (beginJob j s).live = s.live := by simp [beginJob]
@[simp] theorem beginJob_pll (j : Job) : (beginJob j s).pll = s.pll := by simp [beginJob]
@[simp] theorem beginJob_par (j : Job) : (beginJob j s).par = s.par := by simp [beginJob]
@[simp] theorem beginJob_now (j : Job) : (beginJob j s).now = s.now := by simp [beginJob]
@[simp] theorem beginJob_fifo (j : Job) : (beginJob j s).fifo = s.fifo := by simp [beginJob]
@[simp] theorem beginJob_drives (j : Job) : (beginJob j s).drives = s.drives := by simp [beginJob]
@[simp] theorem beginJob_inbox (j : Job) : (beginJob j s).inbox = s.inbox := by simp [beginJob]

@[simp] theorem beginHeadUnload_live : (beginHeadUnload s).live = s.live := by
  unfold beginHeadUnload; split <;> rfl
@[simp] theorem beginHeadUnload_pll : (beginHeadUnload s).pll = s.pll := by
  unfold beginHeadUnload; split <;> rfl
@[simp] theorem beginHeadUnload_par : (beginHeadUnload s).par = s.par := by
  unfold beginHeadUnload; split <;> rfl
@[simp] theorem beginHeadUnload_now : (beginHeadUnload s).now = s.now := by
  unfold beginHeadUnload; split <;> rfl
@[simp] theorem beginHeadUnload_fifo : (beginHeadUnload s).fifo = s.fifo := by
  unfold beginHeadUnload; split <;> rfl
@[simp] theorem beginHeadUnload_cfg : (beginHeadUnload s).cfg = s.cfg := by
  unfold beginHeadUnload; split <;> rfl
@[simp] theorem beginHeadUnload_inbox : (beginHeadUnload s).inbox = s.inbox := by
  unfold beginHeadUnload; split <;> rfl
@[simp] theorem beginHeadUnload_drives : (beginHeadUnload s).drives = s.drives := by
  unfold beginHeadUnload; split <;> rfl

@[simp] theorem beginHeadLoad_live (m : MainState) : (beginHeadLoad m s).live = s.live := by
  unfold beginHeadLoad; dsimp only; split <;> rfl
@[simp] theorem beginHeadLoad_pll (m : MainState) : (beginHeadLoad m s).pll = s.pll := by
  unfold beginHeadLoad; dsimp only; split <;> rfl
@[simp] theorem beginHeadLoad_par (m : MainState) : (beginHeadLoad m s).par = s.par := by
  unfold beginHeadLoad; dsimp only; split <;> rfl
@[simp] theorem beginHeadLoad_now (m : MainState) : (beginHeadLoad m s).now = s.now := by
  unfold beginHeadLoad; dsimp only; split <;> rfl
@[simp] theorem beginHeadLoad_fifo (m : MainState) : (beginHeadLoad m s).fifo = s.fifo := by
  unfold beginHeadLoad; dsimp only; split <;> rfl
@[simp] theorem beginHeadLoad_cfg (m : MainState) : (beginHeadLoad m s).cfg = s.cfg := by
  unfold beginHeadLoad; dsimp only; split <;> rfl

@[simp] theorem searchHeader_live : (searchHeader s).live = s.live := by
  rfl
@[simp] theorem searchHeader_pll : (searchHeader s).pll = s.pll := by
  rfl
@[simp] theorem searchHeader_par : (searchHeader s).par = s.par := by
  rfl
@[simp] theorem searchHeader_now : (searchHeader s).now = s.now := by
  rfl
@[simp] theorem searchHeader_fifo : (searchHeader s).fifo = s.fifo := by
  rfl
@[simp] theorem searchHeader_cfg : (searchHeader s).cfg = s.cfg := by
  rfl

@[simp] theorem setSearchRetries_live (n : Nat) : (setSearchRetries n s).live = s.live := by
  rfl
@[simp] theorem setSearchRetries_pll (n : Nat) : (setSearchRetries n s).pll = s.pll := by
  rfl
@[simp] theorem setSearchRetries_par (n : Nat) : (setSearchRetries n s).par = s.par := by
  rfl
@[simp] theorem setSearchRetries_now (n : Nat) : (setSearchRetries n s).now = s.now := by
  rfl
@[simp] theorem setSearchRetries_fifo (n : Nat) : (setSearchRetries n s).fifo = s.fifo := by
  rfl
@[simp] theorem setSearchRetries_cfg (n : Nat) : (setSearchRetries n s).cfg = s.cfg := by
  rfl
@[simp] theorem setSearchRetries_inbox (n : Nat) : (setSearchRetries n s).inbox = s.inbox := by
  rfl
@[simp] theorem setSearchRetries_ctrl (n : Nat) : (setSearchRetries n s).ctrl = s.ctrl := by
  rfl

@[simp] theorem setResult_live (a b c : Byte) (l : List Byte) : (setResult a b c l s).live = s.live := by
  rfl
@[simp] theorem setResult_pll (a b c : Byte) (l : List Byte) : (setResult a b c l s).pll = s.pll := by
  rfl
@[simp] theorem setResult_par (a b c : Byte) (l : List Byte) : (setResult a b c l s).par = s.par := by
  rfl
@[simp] theorem setResult_now (a b c : Byte) (l : List Byte) : (setResult a b c l s).now = s.now := by
  rfl
@[simp] theorem setResult_fifo (a b c : Byte) (l : List Byte) : (setResult a b c l s).fifo = s.fifo := by
  rfl
@[simp] theorem setResult_cfg (a b c : Byte) (l : List Byte) : (setResult a b c l s).cfg = s.cfg := by
  rfl
@[simp] theorem setResult_inbox (a b c : Byte) (l : List Byte) : (setResult a b c l s).inbox = s.inbox := by
  rfl

@[simp] theorem enterResult_live : (enterResult s).live = s.live := by
  simp [enterResult]
@[simp] theorem enterResult_pll : (enterResult s).pll = s.pll := by
  simp [enterResult]
@[simp] theorem enterResult_par : (enterResult s).par = s.par := by
  simp [enterResult]
@[simp] theorem enterResult_now : (enterResult s).now = s.now := by
  simp [enterResult]
@[simp] theorem enterResult_cfg : (enterResult s).cfg = s.cfg := by
  simp [enterResult]
@[simp] theorem enterResult_inbox : (enterResult s).inbox = s.inbox := by
  simp [enterResult]

@[simp] theorem endJob_live (a b c : Byte) (l : List Byte) : (endJob a b c l s).live = s.live := by
  simp [endJob]
@[simp] theorem endJob_pll (a b c : Byte) (l : List Byte) : (endJob a b c l s).pll = s.pll := by
  simp [endJob]
@[simp] theorem endJob_par (a b c : Byte) (l : List Byte) : (endJob a b c l s).par = s.par := by
  simp [endJob]
@[simp] theorem endJob_now (a b c : Byte) (l : List Byte) : (endJob a b c l s).now = s.now := by
  simp [endJob]
@[simp] theorem endJob_cfg (a b c : Byte) (l : List Byte) : (endJob a b c l s).cfg = s.cfg := by
  simp [endJob]
@[simp] theorem endJob_inbox (a b c : Byte) (l : List Byte) : (endJob a b c l s).inbox = s.inbox := by
  simp [endJob]

@[simp] theorem endTransfer_live (a b c : Byte) (l : List Byte) : (endTransfer a b c l s).live = s.live := by
  unfold endTransfer; dsimp only; split <;> rfl
@[simp] theorem endTransfer_pll (a b c : Byte) (l : List Byte) : (endTransfer a b c l s).pll = s.pll := by
  unfold endTransfer; dsimp only; split <;> rfl
@[simp] theorem endTransfer_par (a b c : Byte) (l : List Byte) : (endTransfer a b c l s).par = s.par := by
  unfold endTransfer; dsimp only; split <;> rfl
@[simp] theorem endTransfer_now (a b c : Byte) (l : List Byte) : (endTransfer a b c l s).now = s.now := by
  unfold endTransfer; dsimp only; split <;> rfl
@[simp] theorem endTransfer_fifo (a b c : Byte) (l : List Byte) : (endTransfer a b c l s).fifo = s.fifo := by
  unfold endTransfer; dsimp only; split <;> rfl
@[simp] theorem endTransfer_cfg (a b c : Byte) (l : List Byte) : (endTransfer a b c l s).cfg = s.cfg := by
  unfold endTransfer; dsimp only; split <;> rfl

@[simp] theorem pendStatus_live (u : Nat) (b : Byte) : (pendStatus u b s).live = s.live := by
  rfl
@[simp] theorem pendStatus_pll (u : Nat) (b : Byte) : (pendStatus u b s).pll = s.pll := by
  rfl
@[simp] theorem pendStatus_par (u : Nat) (b : Byte) : (pendStatus u b s).par = s.par := by
  rfl
@[simp] theorem pendStatus_now (u : Nat) (b : Byte) : (pendStatus u b s).now = s.now := by
  rfl
@[simp] theorem pendStatus_fifo (u : Nat) (b : Byte) : (pendStatus u b s).fifo = s.fifo := by
  rfl
@[simp] theorem pendStatus_cfg (u : Nat) (b : Byte) : (pendStatus u b s).cfg = s.cfg := by
  rfl
@[simp] theorem pendStatus_inbox (u : Nat) (b : Byte) : (pendStatus u b s).inbox = s.inbox := by
  rfl

end Sys2Proof.Laws
end

