-- ==== Sys2Proof/Laws/PerInstr.lean ====
section
/-! SUPPORT. A family of facts with one lemma per instruction: the code of an encoded instruction has as many bytes as its
format gives it (30_encoding introduction, 46_command_engine R291). -/

namespace Sys2Proof.Laws

open Sys2Proof Sys2Proof.Machine

/-- The number of bytes a format gives a code: one, two for words, for a host command its command's count. -/
def codeBytes (r : Request) : Option Nat :=
  match r.fmt with
  | .op => some 1
  | .state => some 1
  | .raw16 => some 2
  | .mark16 => some 2
  | .am8 => some 1
  | .flag => some 1
  | .hostcmd => commandLength (r.code.headD 0)

/-- The encoded instruction has the bytes its format asks for. -/
def EncodeShape.Statement (i : Instr) : Prop := codeBytes (encode i) = some (encode i).code.length

/-- The byte count of a host command does not depend on the three bits above its command bits. -/
theorem commandLength_flags (f : BitVec 3) (c : BitVec 5) : commandLength (f ++ c : BitVec 8) = commandLength (0#3 ++ c) := by
  simp [commandLength, command_bits]

theorem EncodeShape.pllSetClock (period : Nat) : EncodeShape.Statement (.pllSetClock period) := rfl
theorem EncodeShape.pllReset (t : Time) : EncodeShape.Statement (.pllReset t) := rfl
theorem EncodeShape.getNextBit (limit : Time) : EncodeShape.Statement (.getNextBit limit) := rfl
theorem EncodeShape.writeNextBit (bit : Bool) (limit : Time) : EncodeShape.Statement (.writeNextBit bit limit) := rfl
theorem EncodeShape.startWriting (tm : Time) : EncodeShape.Statement (.startWriting tm) := rfl
theorem EncodeShape.commit (tm : Time) : EncodeShape.Statement (.commit tm) := rfl
theorem EncodeShape.stopWriting (tm : Time) : EncodeShape.Statement (.stopWriting tm) := rfl
theorem EncodeShape.encodeMfm (v : Byte) : EncodeShape.Statement (.encodeMfm v) := rfl
theorem EncodeShape.encodeFm (v : Byte) : EncodeShape.Statement (.encodeFm v) := rfl
theorem EncodeShape.loadRaw (w : Word) : EncodeShape.Statement (.loadRaw w) := rfl
theorem EncodeShape.crcSeed : EncodeShape.Statement .crcSeed := rfl
theorem EncodeShape.crcBit (b : Bool) : EncodeShape.Statement (.crcBit b) := rfl
theorem EncodeShape.crcByte (v : Byte) : EncodeShape.Statement (.crcByte v) := rfl
theorem EncodeShape.readOneBit (limit : Time) : EncodeShape.Statement (.readOneBit limit) := rfl
theorem EncodeShape.writeOneBit (limit : Time) : EncodeShape.Statement (.writeOneBit limit) := rfl
theorem EncodeShape.liveStart (drive : Nat) (state : LiveState) : EncodeShape.Statement (.liveStart drive state) := rfl
theorem EncodeShape.liveRun (limit : Time) : EncodeShape.Statement (.liveRun limit) := rfl
theorem EncodeShape.checkpoint : EncodeShape.Statement .checkpoint := rfl
theorem EncodeShape.rollback : EncodeShape.Statement .rollback := rfl
theorem EncodeShape.liveSync : EncodeShape.Statement .liveSync := rfl
theorem EncodeShape.liveDelay (state : LiveState) : EncodeShape.Statement (.liveDelay state) := rfl
theorem EncodeShape.liveAbort : EncodeShape.Statement .liveAbort := rfl
theorem EncodeShape.reservedOp (code : Byte) : EncodeShape.Statement (.reservedOp code) := rfl
theorem EncodeShape.idle (limit : Time) : EncodeShape.Statement (.idle limit) := rfl
theorem EncodeShape.searchAddressMarkHeader (limit : Time) : EncodeShape.Statement (.searchAddressMarkHeader limit) := rfl
theorem EncodeShape.readHeaderBlockHeader (limit : Time) : EncodeShape.Statement (.readHeaderBlockHeader limit) := rfl
theorem EncodeShape.readIdBlock (limit : Time) : EncodeShape.Statement (.readIdBlock limit) := rfl
theorem EncodeShape.searchAddressMarkData (limit : Time) : EncodeShape.Statement (.searchAddressMarkData limit) := rfl
theorem EncodeShape.readDataBlockHeader (limit : Time) : EncodeShape.Statement (.readDataBlockHeader limit) := rfl
theorem EncodeShape.readSectorData (limit : Time) : EncodeShape.Statement (.readSectorData limit) := rfl
theorem EncodeShape.readSectorDataByte (limit : Time) : EncodeShape.Statement (.readSectorDataByte limit) := rfl
theorem EncodeShape.writeSectorSkipGap2 (limit : Time) : EncodeShape.Statement (.writeSectorSkipGap2 limit) := rfl
theorem EncodeShape.writeSectorData (limit : Time) : EncodeShape.Statement (.writeSectorData limit) := rfl
theorem EncodeShape.writeSectorDataByte (limit : Time) : EncodeShape.Statement (.writeSectorDataByte limit) := rfl
theorem EncodeShape.writeTrackPreSectors (limit : Time) : EncodeShape.Statement (.writeTrackPreSectors limit) := rfl
theorem EncodeShape.writeTrackPreSectorsByte (limit : Time) : EncodeShape.Statement (.writeTrackPreSectorsByte limit) := rfl
theorem EncodeShape.writeTrackSector (limit : Time) : EncodeShape.Statement (.writeTrackSector limit) := rfl
theorem EncodeShape.writeTrackSectorByte (limit : Time) : EncodeShape.Statement (.writeTrackSectorByte limit) := rfl
theorem EncodeShape.writeTrackPostSectors (limit : Time) : EncodeShape.Statement (.writeTrackPostSectors limit) := rfl
theorem EncodeShape.writeTrackPostSectorsByte (limit : Time) : EncodeShape.Statement (.writeTrackPostSectorsByte limit) := rfl
theorem EncodeShape.reservedState (code : Byte) : EncodeShape.Statement (.reservedState code) := rfl
theorem EncodeShape.rawWord (w : Word) : EncodeShape.Statement (.rawWord w) := rfl
theorem EncodeShape.mfmByte (prev : Bool) (v : Byte) : EncodeShape.Statement (.mfmByte prev v) := rfl
theorem EncodeShape.fmByte (v : Byte) : EncodeShape.Statement (.fmByte v) := rfl
theorem EncodeShape.syncMfm : EncodeShape.Statement .syncMfm := rfl
theorem EncodeShape.syncFmId : EncodeShape.Statement .syncFmId := rfl
theorem EncodeShape.fmDam : EncodeShape.Statement .fmDam := rfl
theorem EncodeShape.fmDdam : EncodeShape.Statement .fmDdam := rfl
theorem EncodeShape.mfmIam : EncodeShape.Statement .mfmIam := rfl
theorem EncodeShape.fmIam : EncodeShape.Statement .fmIam := rfl
theorem EncodeShape.amId : EncodeShape.Statement .amId := rfl
theorem EncodeShape.amData : EncodeShape.Statement .amData := rfl
theorem EncodeShape.amDdata : EncodeShape.Statement .amDdata := rfl
theorem EncodeShape.amIndex : EncodeShape.Statement .amIndex := rfl
theorem EncodeShape.fDamDeleted : EncodeShape.Statement .fDamDeleted := rfl
theorem EncodeShape.fDataMarkMissing : EncodeShape.Statement .fDataMarkMissing := rfl
theorem EncodeShape.fOverrun : EncodeShape.Statement .fOverrun := rfl
theorem EncodeShape.readTrack (a : DataArgs) : EncodeShape.Statement (.readTrack a) := by
  simp [EncodeShape.Statement, codeBytes, encode, encodeData, encodeHost, commandLength_flags]; rfl
theorem EncodeShape.specify (flags : BitVec 3) (b1 b2 : Byte) : EncodeShape.Statement (.specify flags b1 b2) := by
  simp [EncodeShape.Statement, codeBytes, encode, encodeHost, commandLength_flags]; rfl
theorem EncodeShape.senseDriveStatus (flags : BitVec 3) (hu : Byte) : EncodeShape.Statement (.senseDriveStatus flags hu) := by
  simp [EncodeShape.Statement, codeBytes, encode, encodeHost, commandLength_flags]; rfl
theorem EncodeShape.writeData (a : DataArgs) : EncodeShape.Statement (.writeData a) := by
  simp [EncodeShape.Statement, codeBytes, encode, encodeData, encodeHost, commandLength_flags]; rfl
theorem EncodeShape.readData (a : DataArgs) : EncodeShape.Statement (.readData a) := by
  simp [EncodeShape.Statement, codeBytes, encode, encodeData, encodeHost, commandLength_flags]; rfl
theorem EncodeShape.recalibrate (flags : BitVec 3) (hu : Byte) : EncodeShape.Statement (.recalibrate flags hu) := by
  simp [EncodeShape.Statement, codeBytes, encode, encodeHost, commandLength_flags]; rfl
theorem EncodeShape.senseInterruptStatus (flags : BitVec 3) : EncodeShape.Statement (.senseInterruptStatus flags) := by
  simp [EncodeShape.Statement, codeBytes, encode, encodeHost, commandLength_flags]; rfl
theorem EncodeShape.writeDeletedData (a : DataArgs) : EncodeShape.Statement (.writeDeletedData a) := by
  simp [EncodeShape.Statement, codeBytes, encode, encodeData, encodeHost, commandLength_flags]; rfl
theorem EncodeShape.readId (flags : BitVec 3) (hu : Byte) : EncodeShape.Statement (.readId flags hu) := by
  simp [EncodeShape.Statement, codeBytes, encode, encodeHost, commandLength_flags]; rfl
theorem EncodeShape.readDeletedData (a : DataArgs) : EncodeShape.Statement (.readDeletedData a) := by
  simp [EncodeShape.Statement, codeBytes, encode, encodeData, encodeHost, commandLength_flags]; rfl
theorem EncodeShape.formatTrack (flags : BitVec 3) (hu n sc gpl d : Byte) : EncodeShape.Statement (.formatTrack flags hu n sc gpl d) := by
  simp [EncodeShape.Statement, codeBytes, encode, encodeHost, commandLength_flags]; rfl
theorem EncodeShape.dumpReg (flags : BitVec 3) : EncodeShape.Statement (.dumpReg flags) := by
  simp [EncodeShape.Statement, codeBytes, encode, encodeHost, commandLength_flags]; rfl
theorem EncodeShape.seek (flags : BitVec 3) (hu ncn : Byte) : EncodeShape.Statement (.seek flags hu ncn) := by
  simp [EncodeShape.Statement, codeBytes, encode, encodeHost, commandLength_flags]; rfl
theorem EncodeShape.version (flags : BitVec 3) : EncodeShape.Statement (.version flags) := by
  simp [EncodeShape.Statement, codeBytes, encode, encodeHost, commandLength_flags]; rfl
theorem EncodeShape.scanEqual (a : DataArgs) : EncodeShape.Statement (.scanEqual a) := by
  simp [EncodeShape.Statement, codeBytes, encode, encodeData, encodeHost, commandLength_flags]; rfl
theorem EncodeShape.configure (flags : BitVec 3) (b1 b2 b3 : Byte) : EncodeShape.Statement (.configure flags b1 b2 b3) := by
  simp [EncodeShape.Statement, codeBytes, encode, encodeHost, commandLength_flags]; rfl
theorem EncodeShape.lock (flags : BitVec 3) : EncodeShape.Statement (.lock flags) := by
  simp [EncodeShape.Statement, codeBytes, encode, encodeHost, commandLength_flags]; rfl
theorem EncodeShape.scanLowOrEqual (a : DataArgs) : EncodeShape.Statement (.scanLowOrEqual a) := by
  simp [EncodeShape.Statement, codeBytes, encode, encodeData, encodeHost, commandLength_flags]; rfl
theorem EncodeShape.scanHighOrEqual (a : DataArgs) : EncodeShape.Statement (.scanHighOrEqual a) := by
  simp [EncodeShape.Statement, codeBytes, encode, encodeData, encodeHost, commandLength_flags]; rfl

end Sys2Proof.Laws
end

