-- ==== Sys2Proof/Laws/Run.lean ====
section
/-! SUPPORT. LIVE_RUN's loop (45_live_control R263): what one turn of it can do, that a run ends by itself before its turns are
used up, and what a reset makes of a refused LIVE_ABORT. -/

namespace Sys2Proof.Laws

open Sys2Proof.Machine Sys2Proof.Safety

/-- The states whose rule reads or writes a cell; the others are load states, READ_SECTOR_DATA_BYTE and IDLE. -/
def isCellState : LiveState → Bool
  | .idle => false
  | .readSectorDataByte => false
  | .writeSectorData => false
  | .writeTrackPreSectors => false
  | .writeTrackSector => false
  | .writeTrackPostSectors => false
  | _ => true

/-- `t` stands where `s` stands, with a PLL whose cells have positive length. -/
def AtSameCursor (s t : State) : Prop := PllSound t.pll ∧ t.pll.ctime = s.pll.ctime

/-- A cell has passed: the cursor is after `c` and not after `n`, and cells still have positive length. -/
def Advanced (n c : Nat) (t : State) : Prop := PllSound t.pll ∧ ∃ e : Nat, t.pll.ctime = .ticks e ∧ c < e ∧ e ≤ n

/-- LIVE_RUN's loop takes another turn (45_live_control R263). -/
def RunsAgain (r : State × OpOutcome) : Prop := r.2 = .cont ∨ (r.2 = .delayed ∧ r.1.live.nextState = none)

/-- COMMIT does not move the cursor. -/
theorem commitTo_cursor {tm : Time} {s t : State} (hp : PllSound s.pll) (h : commitTo tm s = .ok t) :
    PllSound t.pll ∧ t.pll.ctime = s.pll.ctime ∧ t.live = s.live ∧ t.now = s.now := by
  rcases commitTo_cases h with ⟨_, rfl⟩ | ⟨b, _, _, rfl⟩ | ⟨b, _, _, _, _, rfl⟩
  · exact ⟨hp, rfl, rfl, rfl⟩
  · exact ⟨hp, rfl, rfl, rfl⟩
  · exact ⟨hp, rfl, rfl, rfl⟩

/-- CHECKPOINT does not move the cursor. -/
theorem takeCheckpoint_cursor {s t : State} (hp : PllSound s.pll) (h : takeCheckpoint s = .ok t) :
    AtSameCursor s t ∧ t.live = s.live := by
  obtain ⟨-, c, hcc, rfl⟩ := takeCheckpoint_cases h
  rcases hcc with ⟨hd, rfl⟩ | ⟨hd, hcm⟩
  · exact ⟨⟨hp, rfl⟩, rfl⟩
  · obtain ⟨a, b, c, d⟩ := commitTo_cursor hp hcm; exact ⟨⟨a, b⟩, c⟩

/-- STOP_WRITING does not move the cursor. -/
theorem stopWritingAt_cursor {tm : Time} {s t : State} (hp : PllSound s.pll) (h : stopWritingAt tm s = .ok t) :
    AtSameCursor s t ∧ t.live = s.live ∧ t.now = s.now := by
  obtain ⟨c, hc, rfl⟩ := stopWritingAt_cases h
  obtain ⟨a, b, c, d⟩ := commitTo_cursor hp hc; exact ⟨⟨a, b⟩, c, d⟩

/-- LIVE_SYNC at a confirmed time makes the pending transition and does not move the cursor (45_live_control R267). -/
theorem syncConfirmed_cursor {s t : State} (hp : PllSound s.pll) (h : syncConfirmed s = .ok t) :
    AtSameCursor s t ∧ t.live.nextState = none ∧ t.live.state = s.live.nextState.getD s.live.state := by
  unfold syncConfirmed at h
  cases hc : commitTo s.live.tm s with
  | error e => simp [hc, bind, Except.bind] at h
  | ok c =>
    simp only [hc, bind, Except.bind] at h
    obtain ⟨f1, f2, f3, f4⟩ := commitTo_cursor hp hc
    split at h
    · next hi =>
      split at h
      · cases h
      · next v hv =>
        obtain ⟨w, hw, rfl⟩ := enterIdle_cases hv
        obtain ⟨⟨g1, g2⟩, g3, g4⟩ := stopWritingAt_cursor
          (s := { c with live := { c.live with state := c.live.nextState.getD c.live.state } }) f1 hw
        obtain ⟨⟨k1, k2⟩, k3⟩ := takeCheckpoint_cursor (s := { w with
          live := { w.live with state := .idle, nextState := none, tm := .never, drive := none } }) g1 h
        refine ⟨⟨k1, k2.trans (g2.trans f2)⟩, by rw [k3], ?_⟩
        rw [k3, ← f3]; exact hi.symm
    · next hi =>
      obtain ⟨⟨k1, k2⟩, k3⟩ := takeCheckpoint_cursor (s := { c with
        live := { c.live with state := c.live.nextState.getD c.live.state, nextState := none } }) f1 h
      refine ⟨⟨k1, k2.trans f2⟩, by rw [k3], by rw [k3, f3]⟩

/-- LIVE_DELAY does not move the cursor; made on the spot, the state is the transition's (45_live_control R266). -/
theorem delayTo_cursor {st : LiveState} {s t : State} (hp : PllSound s.pll)
    (h : delayTo st s = .ok t) : AtSameCursor s t ∧ (t.live.nextState = none → t.live.state = st) := by
  rcases delayTo_cases h with ⟨h1, rfl⟩ | ⟨n, h1, h2, rfl⟩ | ⟨h1, h2⟩
  · exact ⟨⟨hp, rfl⟩, by simp⟩
  · exact ⟨⟨hp, rfl⟩, by simp [requestWake]⟩
  · obtain ⟨a, b, c⟩ := syncConfirmed_cursor (s := { s with live := { s.live with nextState := some st } }) hp h2
    exact ⟨a, fun _ => by simpa using c⟩

/-- A cell read under a limit ends after it began and not after the limit (40_pll R154, R158). -/
theorem getNextBit_advances {par : Params} {edge : Time} {p p' : Pll} {b : Bool} {c limit : Nat} (hp : PllSound p)
    (hc : p.ctime = .ticks c) (hb : p.getNextBit par edge (.ticks limit) = some (b, p')) :
    PllSound p' ∧ ∃ e : Nat, p'.ctime = .ticks e ∧ c < e ∧ e ≤ limit := by
  obtain ⟨h1, h2, h3, h4⟩ := hp
  obtain ⟨e1, e2, e3, e4, e5, e6, e7, e8, e9⟩ := getNextBit_cases hb
  have hce : p.cellEnd = .ticks (c + (p.period + p.phaseAdjust)).toNat := by
    rw [Pll.cellEnd, hc]; rfl
  have hl : (c + (p.period + p.phaseAdjust)).toNat ≤ limit := by
    rw [hce] at e2; simp [Time.lt] at e2; omega
  refine ⟨?_, _, e1.trans hce, by omega, hl⟩
  unfold Pll.getNextBit at hb
  rw [hce] at hb
  dsimp only at hb
  rw [hce] at e2
  rw [e2] at hb
  rw [if_neg (by decide)] at hb
  cases edge with
  | never => dsimp only at hb; cases hb; exact ⟨h1, h2, by simp [Pll.coast], h4⟩
  | ticks e =>
    dsimp only at hb
    split at hb
    · cases hb; exact ⟨h1, h2, by simp [Pll.coast], h4⟩
    · cases hb
      refine ⟨?_, ?_, ?_, h4⟩
      · simp only [Pll.lockOn, clamp]; split_ifs <;> omega
      · simp only [Pll.lockOn, clamp]; split_ifs <;> omega
      · simp only [Pll.lockOn, clamp]; split_ifs <;> omega

/-- The same of a cell that a read state reads. -/
theorem readCell_advances {n c : Nat} {s t : State} (hp : PllSound s.pll) (hc : s.pll.ctime = .ticks c)
    (h : readCell none (.ticks n) s = some t) :
    Advanced n c t ∧ t.live.nextState = s.live.nextState ∧ t.live.state = s.live.state := by
  obtain ⟨b, p, hb, rfl⟩ := readCell_cases h
  exact ⟨getNextBit_advances hp hc hb, rfl, rfl⟩

/-- After a cell and a transition made on the spot the cell still has passed. -/
theorem thenDelay_advanced {st : LiveState} {n c : Nat} {s : State} {r : State × OpOutcome} (h1 : Advanced n c s)
    (h : thenDelay st s = .ok r) : RunsAgain r → Advanced n c r.1 ∧ r.1.live.nextState = none := by
  unfold thenDelay at h
  cases hd : delayTo st s with
  | error e => simp [hd, Except.map] at h
  | ok t =>
    simp [hd, Except.map] at h; subst h
    obtain ⟨h0, e, h2, h3⟩ := h1
    obtain ⟨⟨a, b⟩, -⟩ := delayTo_cursor h0 hd
    rintro (h | ⟨-, h⟩)
    · cases h
    · exact ⟨⟨a, e, b.trans h2, h3⟩, h⟩

/-- The same of a transition to IDLE with a flag raised. -/
theorem endWith_advanced {f : BitVec 3} {n c : Nat} {s : State} {r : State × OpOutcome} (h1 : Advanced n c s)
    (h : endWith f s = .ok r) : RunsAgain r → Advanced n c r.1 ∧ r.1.live.nextState = none :=
  thenDelay_advanced (s := raise f s) h1 (st := .idle) h

/-- LoadItem changes the live context and the FIFO only, and no pending transition (44_write_states R231). -/
theorem loadItem_frame (i : Item) (s : State) :
    ∃ l q, loadItem i s = { s with live := l, fifo := q } ∧ l.nextState = s.live.nextState := by
  unfold loadItem
  split
  · exact ⟨_, s.fifo, rfl, rfl⟩
  · exact ⟨_, s.fifo, rfl, rfl⟩
  · exact ⟨_, s.fifo, rfl, rfl⟩
  · split
    · exact ⟨_, s.fifo, rfl, rfl⟩
    · split
      · exact ⟨_, s.fifo, rfl, rfl⟩
      · next b t hb => obtain ⟨q, _, rfl⟩ := fifoPop_cases hb; exact ⟨_, q, rfl, rfl⟩
  · exact ⟨_, s.fifo, rfl, rfl⟩
  · exact ⟨s.live, s.fifo, rfl, rfl⟩

/-- A load state's end enters the emit state at the same cursor. -/
theorem loadThen_cursor {i : Item} {emit : LiveState} {s : State} {r : State × OpOutcome} (hp : PllSound s.pll)
    (hn : s.live.nextState = none) (h : loadThen i emit s = .ok r) :
    AtSameCursor s r.1 ∧ r.1.live.state = emit ∧ r.1.live.nextState = none := by
  unfold loadThen at h
  obtain ⟨l, q, e, e1⟩ := loadItem_frame i s
  rw [e] at h
  dsimp only at h
  cases hd : takeCheckpoint { s with live := { l with bitCounter := 0, state := emit }, fifo := q } with
  | error e => rw [hd] at h; cases h
  | ok t => rw [hd] at h; cases h
            obtain ⟨a, b⟩ := takeCheckpoint_cursor
              (s := { s with live := { l with bitCounter := 0, state := emit }, fifo := q }) hp hd
            exact ⟨a, by rw [b], by rw [b]; exact e1.trans hn⟩

/-- START_WRITING before a first item does not move the cursor (44_write_states R234, R237). -/
theorem startIfFirst_cursor {s : State} (hp : PllSound s.pll) :
    PllSound (startIfFirst s).pll ∧ (startIfFirst s).pll.ctime = s.pll.ctime ∧ (startIfFirst s).live = s.live := by
  unfold startIfFirst
  split <;> exact ⟨hp, rfl, rfl⟩

/-- A turn of an emit state that runs again has written a cell. -/
theorem emitCell_advances {n c : Nat} {next : State → Bool × LiveState} {s : State} {r : State × OpOutcome}
    (hp : PllSound s.pll) (hn : s.live.nextState = none) (hc : s.pll.ctime = .ticks c)
    (h : emitCell (.ticks n) next s = .ok r) : RunsAgain r → Advanced n c r.1 ∧ r.1.live.nextState = none := by
  unfold emitCell at h
  cases hw : writeCell (.ticks n) s with
  | error e => simp [hw, bind, Except.bind] at h
  | ok x =>
    obtain ⟨g, t⟩ := x
    simp only [hw, bind, Except.bind] at h
    cases g with
    | false => simp at h; subst h; rintro (h | ⟨h, -⟩) <;> cases h
    | true =>
      have hk : Advanced n c t ∧ t.live.nextState = s.live.nextState := by
        unfold writeCell at hw
        cases hx : s.pll.writeNextBit s.par (s.live.wsr.getLsbD 15) (.ticks n) with
        | error e => rw [hx] at hw; cases hw
        | ok x =>
          obtain ⟨ok, p⟩ := x
          rw [hx] at hw; simp only [Except.map, Except.ok.injEq] at hw
          have hen : PllSound s.pll.enterWrite ∧ s.pll.enterWrite.ctime = .ticks c ∧
              s.pll.enterWrite.period = s.pll.period := by
            unfold Pll.enterWrite; split <;> exact ⟨hp, hc, rfl⟩
          obtain ⟨q1, q2, q3⟩ := hen
          have per : 1 ≤ s.pll.period := by obtain ⟨a1, a2, a3, a4⟩ := hp; omega
          have add1 : s.pll.enterWrite.ctime.add s.pll.enterWrite.period = .ticks (c + s.pll.period) := by
            rw [q2, q3]; simp [Time.add]; omega
          have hl : ok = true → c + s.pll.period ≤ n := by
            intro ho; subst ho
            unfold Pll.writeNextBit at hx
            dsimp only at hx
            rw [add1] at hx
            split at hx
            · cases hx
            · next hh => simp [Time.lt] at hh; omega
          rcases writeNextBit_cases hx with ⟨rfl, rfl, -⟩ | ⟨rfl, -, rfl⟩ | ⟨rfl, -, -, rfl⟩
          · simp at hw
          · simp at hw; subst hw
            exact ⟨⟨q1, c + s.pll.period, add1, by omega, hl rfl⟩, rfl⟩
          · simp at hw; subst hw
            exact ⟨⟨q1, c + s.pll.period, add1, by omega, hl rfl⟩, rfl⟩
      obtain ⟨k1, k2⟩ := hk
      simp only [Bool.not_true, Bool.false_eq_true, if_false] at h
      split at h
      · cases h; intro _; exact ⟨k1, k2.trans hn⟩
      · refine thenDelay_advanced ?_ h
        split <;> exact k1

/-- A rule that ran at a confirmed time ran as it is. -/
theorem confirmed_ok {α : Type} {s : State} {r : Res α} {x : α} (h : confirmed s r = .ok x) : r = .ok x := by
  unfold confirmed at h; split at h
  · exact h
  · cases h

/-- What one turn of LIVE_RUN's loop leaves, when the loop goes on: no transition pending, and either a cell has passed or
the cursor stands and a state that reads or writes cells, or IDLE, follows (45_live_control R263). -/
theorem turn_of_rule {n c : Nat} {s : State} {r : State × OpOutcome} (hi : s.live.state ≠ .idle)
    (hn : s.live.nextState = none) (hp : PllSound s.pll) (hc : s.pll.ctime = .ticks c)
    (h : stateRule s.live.state none (.ticks n) s = .ok r) : RunsAgain r →
    r.1.live.nextState = none ∧ (isCellState s.live.state = true ∧ Advanced n c r.1 ∨
      isCellState s.live.state = false ∧ AtSameCursor s r.1 ∧
        (isCellState r.1.live.state = true ∨ r.1.live.state = .idle)) := by
  cases hst : s.live.state with
  | idle => exact absurd hst hi
  | searchAddressMarkHeader =>
    rw [hst] at h
    simp only [stateRule, ruleSearchHeader] at h
    split at h
    · cases h; rintro (h | ⟨h, -⟩) <;> cases h
    · next c hc' =>
      obtain ⟨k1, k2, k3⟩ := readCell_advances hp hc hc'
      intro _
      split_ifs at h <;> cases h <;> exact ⟨k2.trans hn, .inl ⟨rfl, k1⟩⟩
  | readHeaderBlockHeader =>
    rw [hst] at h
    simp only [stateRule, ruleHeaderHeader] at h
    split at h
    · cases h
    · split at h
      · cases h; rintro (h | ⟨h, -⟩) <;> cases h
      · next c hc' =>
        obtain ⟨k1, k2, k3⟩ := readCell_advances hp hc hc'
        intro _
        split_ifs at h <;> cases h <;> exact ⟨k2.trans hn, .inl ⟨rfl, k1⟩⟩
  | readIdBlock =>
    rw [hst] at h
    simp only [stateRule, ruleReadId] at h
    split at h
    · cases h; rintro (h | ⟨h, -⟩) <;> cases h
    · next c hc' =>
      obtain ⟨k1, k2, k3⟩ := readCell_advances hp hc hc'
      intro ha
      split_ifs at h
      · cases h; exact ⟨k2.trans hn, .inl ⟨rfl, k1⟩⟩
      · obtain ⟨a, b⟩ := thenDelay_advanced (by exact k1) h ha; exact ⟨b, .inl ⟨rfl, a⟩⟩
      · cases h; exact ⟨k2.trans hn, .inl ⟨rfl, k1⟩⟩
  | searchAddressMarkData =>
    rw [hst] at h
    simp only [stateRule, ruleSearchData] at h
    split at h
    · cases h; rintro (h | ⟨h, -⟩) <;> cases h
    · next c hc' =>
      obtain ⟨k1, k2, k3⟩ := readCell_advances hp hc hc'
      intro ha
      split_ifs at h
      · obtain ⟨a, b⟩ := endWith_advanced k1 h ha; exact ⟨b, .inl ⟨rfl, a⟩⟩
      all_goals cases h; exact ⟨k2.trans hn, .inl ⟨rfl, k1⟩⟩
  | readDataBlockHeader =>
    rw [hst] at h
    simp only [stateRule, ruleDataHeader] at h
    split at h
    · cases h
    · split at h
      · cases h; rintro (h | ⟨h, -⟩) <;> cases h
      · next c hc' =>
        obtain ⟨k1, k2, k3⟩ := readCell_advances hp hc hc'
        intro ha
        split_ifs at h
        · cases h; exact ⟨k2.trans hn, .inl ⟨rfl, k1⟩⟩
        · obtain ⟨a, b⟩ := endWith_advanced k1 h ha; exact ⟨b, .inl ⟨rfl, a⟩⟩
        · cases h; exact ⟨k2.trans hn, .inl ⟨rfl, k1⟩⟩
        · cases h; exact ⟨k2.trans hn, .inl ⟨rfl, k1⟩⟩
        · cases h; exact ⟨k2.trans hn, .inl ⟨rfl, k1⟩⟩
        · obtain ⟨a, b⟩ := endWith_advanced k1 h ha; exact ⟨b, .inl ⟨rfl, a⟩⟩
  | readSectorData =>
    rw [hst] at h
    simp only [stateRule, ruleSectorData] at h
    split at h
    · cases h; rintro (h | ⟨h, -⟩) <;> cases h
    · next c hc' =>
      obtain ⟨k1, k2, k3⟩ := readCell_advances hp hc hc'
      intro ha
      split_ifs at h
      · cases h; exact ⟨k2.trans hn, .inl ⟨rfl, k1⟩⟩
      · obtain ⟨a, b⟩ := thenDelay_advanced k1 h ha; exact ⟨b, .inl ⟨rfl, a⟩⟩
      · obtain ⟨a, b⟩ := thenDelay_advanced k1 h ha; exact ⟨b, .inl ⟨rfl, a⟩⟩
      · cases h; exact ⟨k2.trans hn, .inl ⟨rfl, k1⟩⟩
  | writeSectorSkipGap2 =>
    rw [hst] at h
    simp only [stateRule, ruleSkipGap2] at h
    split at h
    · cases h; rintro (h | ⟨h, -⟩) <;> cases h
    · next c hc' =>
      obtain ⟨k1, k2, k3⟩ := readCell_advances hp hc hc'
      intro ha
      split_ifs at h
      · cases h; exact ⟨k2.trans hn, .inl ⟨rfl, k1⟩⟩
      · obtain ⟨a, b⟩ := thenDelay_advanced (by exact k1) h ha; exact ⟨b, .inl ⟨rfl, a⟩⟩
  | readSectorDataByte =>
    rw [hst] at h
    have h := confirmed_ok h
    intro ha
    have cp : ∀ x : State, PllSound x.pll → x.pll.ctime = s.pll.ctime → x.live = s.live →
       (takeCheckpoint (goTo .readSectorData x)).map (fun s => (s, OpOutcome.cont)) = .ok r →
        r.1.live.nextState = none ∧ AtSameCursor s r.1 ∧ isCellState r.1.live.state = true := by
      intro x h1 h2 h3 h4
      cases hd : takeCheckpoint (goTo .readSectorData x) with
      | error e => rw [hd] at h4; cases h4
      | ok t => rw [hd] at h4; cases h4
                obtain ⟨⟨a, b⟩, c⟩ := takeCheckpoint_cursor (s := goTo .readSectorData x) h1 hd
                refine ⟨by rw [c]; simp [goTo, h3, hn], ⟨a, b.trans h2⟩, by rw [c]; rfl⟩
    split at h
    · unfold endWith at h
      cases hd : delayTo .idle (raise flagOverrun s) with
      | error e => rw [hd] at h; cases h
      | ok t => rw [hd] at h; cases h
                obtain ⟨a, b⟩ := delayTo_cursor (s := raise flagOverrun s) hp hd
                rcases ha with ha | ⟨-, ha⟩
                · cases ha
                · exact ⟨ha, .inr ⟨rfl, a, .inr (b ha)⟩⟩
    · next x hx =>
      split at hx
      · cases hx
        obtain ⟨a, b, c⟩ := cp s hp rfl rfl h; exact ⟨a, .inr ⟨rfl, b, .inl c⟩⟩
      · obtain ⟨-, rfl⟩ := fifoPush_cases hx
        obtain ⟨a, b, c⟩ := cp (s.setFifo (s.fifo ++ [s.live.dataReg])) hp rfl rfl h
        exact ⟨a, .inr ⟨rfl, b, .inl c⟩⟩
  | writeSectorData =>
    rw [hst] at h
    have h := confirmed_ok h
    intro ha
    split at h
    · cases hd : stopWritingAt s.live.tm s with
      | error e => rw [hd] at h; cases h
      | ok w =>
        rw [hd] at h
        obtain ⟨⟨a, b⟩, c, d⟩ := stopWritingAt_cursor hp hd
        simp only [Except.bind, thenDelay] at h
        cases hd : delayTo .idle w with
        | error e => rw [hd] at h; cases h
        | ok t => rw [hd] at h; cases h
                  obtain ⟨⟨a', b'⟩, e⟩ := delayTo_cursor a hd
                  rcases ha with ha | ⟨-, ha⟩
                  · cases ha
                  · exact ⟨ha, .inr ⟨rfl, ⟨a', b'.trans b⟩, .inr (e ha)⟩⟩
    · have := startIfFirst_cursor hp
      obtain ⟨a, b, c⟩ := loadThen_cursor this.1 (by rw [this.2.2]; exact hn) h
      exact ⟨c, .inr ⟨rfl, ⟨a.1, a.2.trans this.2.1⟩, .inl (by rw [b]; rfl)⟩⟩
  | writeTrackPreSectors =>
    rw [hst] at h
    have h := confirmed_ok h
    intro ha
    have := startIfFirst_cursor hp
    obtain ⟨a, b, c⟩ := loadThen_cursor this.1 (by rw [this.2.2]; exact hn) h
    exact ⟨c, .inr ⟨rfl, ⟨a.1, a.2.trans this.2.1⟩, .inl (by rw [b]; rfl)⟩⟩
  | writeTrackSector =>
    rw [hst] at h
    have h := confirmed_ok h
    intro ha
    obtain ⟨a, b, c⟩ := loadThen_cursor hp hn h
    exact ⟨c, .inr ⟨rfl, a, .inl (by rw [b]; rfl)⟩⟩
  | writeTrackPostSectors =>
    rw [hst] at h
    have h := confirmed_ok h
    intro ha
    obtain ⟨a, b, c⟩ := loadThen_cursor hp hn h
    exact ⟨c, .inr ⟨rfl, a, .inl (by rw [b]; rfl)⟩⟩
  | writeSectorDataByte =>
    rw [hst] at h
    unfold stateRule ruleWriteSectorByte at h
    exact fun ha => (emitCell_advances hp hn hc h ha).symm.imp_right fun a => .inl ⟨rfl, a⟩
  | writeTrackPreSectorsByte =>
    rw [hst] at h
    unfold stateRule rulePreSectorsByte at h
    exact fun ha => (emitCell_advances hp hn hc h ha).symm.imp_right fun a => .inl ⟨rfl, a⟩
  | writeTrackSectorByte =>
    rw [hst] at h
    unfold stateRule ruleTrackSectorByte at h
    exact fun ha => (emitCell_advances hp hn hc h ha).symm.imp_right fun a => .inl ⟨rfl, a⟩
  | writeTrackPostSectorsByte =>
    rw [hst] at h
    unfold stateRule rulePostSectorsByte at h
    exact fun ha => (emitCell_advances hp hn hc h ha).symm.imp_right fun a => .inl ⟨rfl, a⟩

/-- The turns a run to `n` can take from cursor `c`: two for every tick, and those of the last cell. -/
def turnsLeft (n c : Nat) (st : LiveState) : Nat :=
  if st = .idle then 1 else 2 * (n - c) + (if isCellState st then 2 else 3)

/-- With as many turns as a run can take, how many there are makes no difference. -/
theorem runLoop_fuel (n : Nat) : ∀ (f g : Nat) (s : State) (c : Nat), s.live.nextState = none → PllSound s.pll →
    s.pll.ctime = .ticks c → turnsLeft n c s.live.state ≤ f → turnsLeft n c s.live.state ≤ g →
    runLoop f (.ticks n) s = runLoop g (.ticks n) s := by
  intro f
  induction f with
  | zero => intro g s c _ _ _ h; exfalso; unfold turnsLeft at h; split at h <;> [omega; (split at h <;> omega)]
  | succ f ih =>
    intro g s c hn hp hc hf hg
    cases g with
    | zero => exfalso; unfold turnsLeft at hg; split at hg <;> [omega; (split at hg <;> omega)]
    | succ g =>
      simp only [runLoop]
      by_cases hi : s.live.state = .idle
      · simp [hi, stateRule]
      · cases hr : stateRule s.live.state none (.ticks n) s with
        | error e => rfl
        | ok r =>
          obtain ⟨t, o⟩ := r
          dsimp only
          by_cases ha : o = .cont ∨ (o = .delayed ∧ t.live.nextState = none)
          · rw [if_pos ha, if_pos ha]
            obtain ⟨h1, ⟨h2, h3, e, h4, h5, h6⟩ | ⟨h2, ⟨h3, h4⟩, h5⟩⟩ := turn_of_rule hi hn hp hc hr ha
            · apply ih g t e h1 h3 h4
              · unfold turnsLeft at hf ⊢; rw [if_neg hi, h2] at hf; split <;> [skip; split] <;> simp at hf ⊢ <;> omega
              · unfold turnsLeft at hg ⊢; rw [if_neg hi, h2] at hg; split <;> [skip; split] <;> simp at hg ⊢ <;> omega
            · apply ih g t c h1 h3 (h4.trans hc)
              · unfold turnsLeft at hf ⊢; rw [if_neg hi, h2] at hf
                rcases h5 with h5 | h5
                · rw [h5]; split <;> simp at hf ⊢ <;> omega
                · rw [if_pos h5]; simp at hf; omega
              · unfold turnsLeft at hg ⊢; rw [if_neg hi, h2] at hg
                rcases h5 with h5 | h5
                · rw [h5]; split <;> simp at hg ⊢ <;> omega
                · rw [if_pos h5]; simp at hg; omega
          · rw [if_neg ha, if_neg ha]

/-- LIVE_RUN has more turns than a run can take (log 12). -/
theorem runBudget_enough {n c : Nat} {s : State} (hp : PllSound s.pll) (hc : s.pll.ctime = .ticks c) :
    turnsLeft n c s.live.state + 1 ≤ runBudget n s := by
  obtain ⟨h1, h2, h3, h4⟩ := hp
  have hce : s.pll.cellEnd = .ticks (c + (s.pll.period + s.pll.phaseAdjust)).toNat := by
    rw [Pll.cellEnd, hc]; rfl
  simp only [runBudget, hc, hce, turnsLeft]
  split
  · omega
  · split <;> omega

/-- A reset's LIVE_ABORT: as LIVE_ABORT leaves the state, or, where it stops, as the state is (log 52). -/
theorem abortForReset_cases (s : State) :
    (∃ a, abort s = .ok a ∧ abortForReset s = a) ∨ (∃ e, abort s = .error e ∧ abortForReset s = s) := by
  cases h : abort s with
  | ok a => exact .inl ⟨a, rfl, by simp [abortForReset, h]⟩
  | error e => exact .inr ⟨e, rfl, by simp [abortForReset, h]⟩

end Sys2Proof.Laws
end

