-- ==== Sys2Proof/Tests/Slice0.lean ====
section
/-! SUPPORT. Tests: ill-formed instructions are refused, every row's code written out from the spec decodes to its
instruction, one step of each instruction against the spec's examples, and for every statement with hypotheses a state
and operands that meet them. -/

namespace Sys2Proof.Tests

open Sys2Proof Sys2Proof.Machine Sys2Proof.Safety

/-! Well-formedness: one ill-formed term for each check. -/

theorem test_wf_op_code_is_not_reserved : (Instr.reservedOp 0x16).wf = false := by decide
theorem test_wf_reserved_op_ends : (Instr.reservedOp 0x00).wf = true ∧ (Instr.reservedOp 0x17).wf = true := by decide
theorem test_wf_state_code_is_not_reserved : (Instr.reservedState 16).wf = false := by decide
theorem test_wf_raw_word_of_a_byte : (Instr.rawWord 0x9254).wf = false ∧ (Instr.rawWord 0xFFFE).wf = false := by decide
theorem test_wf_raw_word_of_no_byte : (Instr.rawWord 0x4489).wf = true := by decide
theorem test_wf_mfm_byte_after_one_with_top_bit : (Instr.mfmByte true 0xFE).wf = false := by decide
theorem test_wf_mfm_zero_after_zero_is_fm : (Instr.mfmByte false 0x00).wf = false := by decide

/-! Codes written out from 30_encoding R111 to R116, R134, R135, R136 and 46_command_engine R291. -/

theorem test_decode_pll_and_write_codes :
    decode ⟨.op, [0x01], [.ticks 2000]⟩ = .ok (.pllSetClock 2000) ∧
    decode ⟨.op, [0x02], [.ticks 5000]⟩ = .ok (.pllReset (.ticks 5000)) ∧
    decode ⟨.op, [0x03], [.ticks 24000]⟩ = .ok (.getNextBit (.ticks 24000)) ∧
    decode ⟨.op, [0x04], [.ticks 1, .never]⟩ = .ok (.writeNextBit true .never) ∧
    decode ⟨.op, [0x02], [.never]⟩ = .ok (.pllReset .never) ∧
    decode ⟨.op, [0x05], [.ticks 448000]⟩ = .ok (.startWriting (.ticks 448000)) ∧
    decode ⟨.op, [0x06], [.ticks 42000]⟩ = .ok (.commit (.ticks 42000)) ∧
    decode ⟨.op, [0x07], [.ticks 42000]⟩ = .ok (.stopWriting (.ticks 42000)) ∧
    decode ⟨.op, [0x08], [.ticks 0x4E]⟩ = .ok (.encodeMfm 0x4E) ∧
    decode ⟨.op, [0x09], [.ticks 0xFE]⟩ = .ok (.encodeFm 0xFE) ∧
    decode ⟨.op, [0x0A], [.ticks 0x4489]⟩ = .ok (.loadRaw 0x4489) := by
  decide

theorem test_decode_crc_and_cell_codes :
    decode ⟨.op, [0x0B], []⟩ = .ok .crcSeed ∧
    decode ⟨.op, [0x0C], [.ticks 1]⟩ = .ok (.crcBit true) ∧
    decode ⟨.op, [0x0D], [.ticks 0xA1]⟩ = .ok (.crcByte 0xA1) ∧
    decode ⟨.op, [0x0E], [.ticks 7]⟩ = .ok (.readOneBit (.ticks 7)) ∧
    decode ⟨.op, [0x0F], [.never]⟩ = .ok (.writeOneBit .never) := by
  decide

theorem test_decode_control_codes :
    decode ⟨.op, [0x10], [.ticks 3, .ticks 8]⟩ = .ok (.liveStart 3 .writeSectorSkipGap2) ∧
    decode ⟨.op, [0x11], [.never]⟩ = .ok (.liveRun .never) ∧
    decode ⟨.op, [0x12], []⟩ = .ok .checkpoint ∧
    decode ⟨.op, [0x13], []⟩ = .ok .rollback ∧
    decode ⟨.op, [0x14], []⟩ = .ok .liveSync ∧
    decode ⟨.op, [0x15], [.ticks 7]⟩ = .ok (.liveDelay .readSectorDataByte) ∧
    decode ⟨.op, [0x16], []⟩ = .ok .liveAbort ∧
    decode ⟨.op, [0x00], []⟩ = .ok (.reservedOp 0x00) ∧
    decode ⟨.op, [0xFF], []⟩ = .ok (.reservedOp 0xFF) := by
  decide

theorem test_decode_state_codes :
    decode ⟨.state, [0], [.never]⟩ = .ok (.idle .never) ∧
    decode ⟨.state, [1], [.never]⟩ = .ok (.searchAddressMarkHeader .never) ∧
    decode ⟨.state, [2], [.never]⟩ = .ok (.readHeaderBlockHeader .never) ∧
    decode ⟨.state, [3], [.never]⟩ = .ok (.readIdBlock .never) ∧
    decode ⟨.state, [4], [.ticks 9]⟩ = .ok (.searchAddressMarkData (.ticks 9)) ∧
    decode ⟨.state, [5], [.never]⟩ = .ok (.readDataBlockHeader .never) ∧
    decode ⟨.state, [6], [.never]⟩ = .ok (.readSectorData .never) ∧
    decode ⟨.state, [7], [.never]⟩ = .ok (.readSectorDataByte .never) ∧
    decode ⟨.state, [8], [.never]⟩ = .ok (.writeSectorSkipGap2 .never) ∧
    decode ⟨.state, [9], [.never]⟩ = .ok (.writeSectorData .never) ∧
    decode ⟨.state, [10], [.never]⟩ = .ok (.writeSectorDataByte .never) ∧
    decode ⟨.state, [11], [.never]⟩ = .ok (.writeTrackPreSectors .never) ∧
    decode ⟨.state, [12], [.never]⟩ = .ok (.writeTrackPreSectorsByte .never) ∧
    decode ⟨.state, [13], [.never]⟩ = .ok (.writeTrackSector .never) ∧
    decode ⟨.state, [14], [.never]⟩ = .ok (.writeTrackSectorByte .never) ∧
    decode ⟨.state, [15], [.never]⟩ = .ok (.writeTrackPostSectors .never) ∧
    decode ⟨.state, [16], [.never]⟩ = .ok (.writeTrackPostSectorsByte .never) ∧
    decode ⟨.state, [17], []⟩ = .ok (.reservedState 17) := by
  decide

/-- 0x4E after a 0 is 1001 0010 0101 0100 and after a 1 is 0001 0010 0101 0100 (41_write_encoder R170); FM 0xFE is 0xFFFE
(R171). -/
theorem test_decode_medium_words :
    decode ⟨.raw16, [0x54, 0x92], []⟩ = .ok (.mfmByte false 0x4E) ∧
    decode ⟨.raw16, [0x54, 0x12], []⟩ = .ok (.mfmByte true 0x4E) ∧
    decode ⟨.raw16, [0xFE, 0xFF], []⟩ = .ok (.fmByte 0xFE) ∧
    decode ⟨.raw16, [0x89, 0x44], []⟩ = .ok (.rawWord 0x4489) ∧
    decode ⟨.mark16, [0x89, 0x44], []⟩ = .ok .syncMfm ∧
    decode ⟨.mark16, [0x7E, 0xF5], []⟩ = .ok .syncFmId ∧
    decode ⟨.mark16, [0x6F, 0xF5], []⟩ = .ok .fmDam ∧
    decode ⟨.mark16, [0x6A, 0xF5], []⟩ = .ok .fmDdam ∧
    decode ⟨.mark16, [0x24, 0x52], []⟩ = .ok .mfmIam ∧
    decode ⟨.mark16, [0x7A, 0xF7], []⟩ = .ok .fmIam ∧
    decode ⟨.am8, [0xFE], []⟩ = .ok .amId ∧
    decode ⟨.am8, [0xFB], []⟩ = .ok .amData ∧
    decode ⟨.am8, [0xF8], []⟩ = .ok .amDdata ∧
    decode ⟨.am8, [0xFC], []⟩ = .ok .amIndex ∧
    decode ⟨.flag, [1], []⟩ = .ok .fDamDeleted ∧
    decode ⟨.flag, [2], []⟩ = .ok .fDataMarkMissing ∧
    decode ⟨.flag, [4], []⟩ = .ok .fOverrun := by
  decide

/-- The arguments of the nine-byte commands below. -/
def args (flags : BitVec 3) : DataArgs := ⟨flags, 0x04, 5, 1, 3, 2, 9, 0x1B, 0xFF⟩

/-- Opcode bytes: MT in bit 7, MFM in bit 6, SK in bit 5, the command in bits 4..0 (46_command_engine R291). -/
theorem test_decode_data_commands :
    decode ⟨.hostcmd, [0x42, 0x04, 5, 1, 3, 2, 9, 0x1B, 0xFF], []⟩ = .ok (.readTrack (args 2)) ∧
    decode ⟨.hostcmd, [0xC5, 0x04, 5, 1, 3, 2, 9, 0x1B, 0xFF], []⟩ = .ok (.writeData (args 6)) ∧
    decode ⟨.hostcmd, [0xE6, 0x04, 5, 1, 3, 2, 9, 0x1B, 0xFF], []⟩ = .ok (.readData (args 7)) ∧
    decode ⟨.hostcmd, [0x09, 0x04, 5, 1, 3, 2, 9, 0x1B, 0xFF], []⟩ = .ok (.writeDeletedData (args 0)) ∧
    decode ⟨.hostcmd, [0x2C, 0x04, 5, 1, 3, 2, 9, 0x1B, 0xFF], []⟩ = .ok (.readDeletedData (args 1)) ∧
    decode ⟨.hostcmd, [0x51, 0x04, 5, 1, 3, 2, 9, 0x1B, 0xFF], []⟩ = .ok (.scanEqual (args 2)) ∧
    decode ⟨.hostcmd, [0x59, 0x04, 5, 1, 3, 2, 9, 0x1B, 0xFF], []⟩ = .ok (.scanLowOrEqual (args 2)) ∧
    decode ⟨.hostcmd, [0x5D, 0x04, 5, 1, 3, 2, 9, 0x1B, 0xFF], []⟩ = .ok (.scanHighOrEqual (args 2)) := by
  decide

theorem test_decode_other_commands :
    decode ⟨.hostcmd, [0x03, 0xDF, 0x02], []⟩ = .ok (.specify 0 0xDF 0x02) ∧
    decode ⟨.hostcmd, [0x04, 0x05], []⟩ = .ok (.senseDriveStatus 0 0x05) ∧
    decode ⟨.hostcmd, [0x07, 0x01], []⟩ = .ok (.recalibrate 0 0x01) ∧
    decode ⟨.hostcmd, [0x08], []⟩ = .ok (.senseInterruptStatus 0) ∧
    decode ⟨.hostcmd, [0x4A, 0x01], []⟩ = .ok (.readId 2 0x01) ∧
    decode ⟨.hostcmd, [0x4D, 0x04, 2, 9, 0x54, 0xE5], []⟩ = .ok (.formatTrack 2 0x04 2 9 0x54 0xE5) ∧
    decode ⟨.hostcmd, [0x0E], []⟩ = .ok (.dumpReg 0) ∧
    decode ⟨.hostcmd, [0x0F, 0x02, 0x28], []⟩ = .ok (.seek 0 0x02 0x28) ∧
    decode ⟨.hostcmd, [0x10], []⟩ = .ok (.version 0) ∧
    decode ⟨.hostcmd, [0x13, 0x00, 0x57, 0x00], []⟩ = .ok (.configure 0 0x00 0x57 0x00) ∧
    decode ⟨.hostcmd, [0x94], []⟩ = .ok (.lock 4) := by
  decide

theorem test_decode_rejects_by_name :
    decode ⟨.op, [0x04], [.ticks 2]⟩ = .error .operandOutOfRange ∧
    decode ⟨.op, [0x10], [.ticks 0, .ticks 17]⟩ = .error .stateCodeReserved ∧
    decode ⟨.op, [0x01], [.never]⟩ = .error .operandNever ∧
    decode ⟨.mark16, [0x88, 0x44], []⟩ = .error .notAMarkWord ∧
    decode ⟨.am8, [0xFD], []⟩ = .error .notAMarkByte ∧ decode ⟨.flag, [3], []⟩ = .error .notAFlag ∧
    decode ⟨.hostcmd, [0x1F], []⟩ = .error .unknownHostCommand ∧
    decode ⟨.hostcmd, [0x03, 0xDF], []⟩ = .error .codeLength := by
  decide

theorem test_table_words :
    decodeTableWord 8 0x0B = some .crcSeed ∧ decodeTableWord 16 0xF56F = some .fmDam ∧
    decodeTableWord 16 0x9254 = some (.mfmByte false 0x4E) ∧ decodeTableWord 8 0xFB = some .amData := by
  decide

/-- The placed instruction is the first one after reset. -/
theorem test_step_runs_the_placed_word :
    step (State.reset.withFetchWord 8 0x0B) = exec .crcSeed State.reset := by
  rfl

/-! One step of each instruction. -/

/-- The next state of an instruction, if it has one. -/
def after (i : Instr) (s : State) : Option State :=
  match exec i s with
  | .next t => some t
  | _ => none

/-- Drive 0 holds a medium with these transitions. -/
def withFlux (flux : List Nat) : State :=
  { State.reset with
    drives := [Drive.reset { Medium.none with present := true, ready := true, flux := flux }] }

/-- The engine is live on drive 0, at time 0, in a state. -/
def engine (st : LiveState) (flux : List Nat) : State :=
  { withFlux flux with live := { Live.reset with state := st, drive := some 0, tm := .ticks 0 } }

/-- The same in FM. -/
def inFm (s : State) : State := { s with cfg := { s.cfg with mode := .fm } }

/-- Example of 40_pll R150. -/
theorem test_pll_set_clock : (after (.pllSetClock 1667) State.reset).map
    (fun t => (t.pll.adjBase, t.pll.minPeriod, t.pll.maxPeriod, t.pll.maxAdj)) = some (83, 1250, 2083, 1249) := by decide

/-- Example of 40_pll R151. -/
theorem test_pll_reset : (after (.pllReset (.ticks 5000)) State.reset).map
    (fun t => (t.pll.ctime, t.pll.period, t.pll.phaseAdjust)) = some (.ticks 5000, 2000, 0) := by decide

/-- 00_scope R10: NEVER is a time, and no cell ends in time after it. -/
theorem test_pll_reset_never : ((after (.pllReset .never) State.reset).bind (after (.getNextBit (.ticks 9)))).map
    (fun t => (t.outcome, t.pll.ctime)) = some (.noBit, .never) := by decide

/-- Vector V-PLL-4 of 95_test_vectors. -/
theorem test_get_next_bit_limit : (after (.getNextBit (.ticks 1999)) (withFlux [1000])).map
    (fun t => (t.outcome, t.pll.ctime)) = some (.noBit, .ticks 0) := by decide

/-- Example of 40_pll R152: a transition 100 ticks late. -/
theorem test_get_next_bit_late : (after (.getNextBit (.ticks 24000))
    { withFlux [5100] with pll := { Pll.reset with ctime := .ticks 4000 } }).map
    (fun t => (t.outcome, t.pll.ctime, t.pll.phaseAdjust, t.pll.freqHist, t.pll.period)) =
    some (.bit1, .ticks 6000, 65, 1, 2000) := by decide

/-- Example of 41_write_encoder R173. -/
theorem test_write_next_bit_limit : (after (.writeNextBit true (.ticks 6999))
    { State.reset with pll := { Pll.reset with ctime := .ticks 5000 } }).map
    (fun t => (t.outcome, t.pll.writeStart, t.pll.ctime)) = some (.wouldExceed, .ticks 5000, .ticks 5000) := by decide

theorem test_write_next_bit : (after (.writeNextBit true (.ticks 7000))
    { State.reset with pll := { Pll.reset with ctime := .ticks 5000 } }).map
    (fun t => (t.outcome, t.pll.wbuf, t.pll.ctime)) = some (.ok, [.ticks 6000], .ticks 7000) := by decide

/-- Example of 41_write_encoder R174. -/
theorem test_start_writing : (after (.startWriting (.ticks 448000)) State.reset).map
    (fun t => (t.pll.writeStart, t.pll.wbuf)) = some (.ticks 448000, []) := by decide

/-- The state of the example of 41_write_encoder R175. -/
def writing : State :=
  { engine .writeSectorDataByte [31000, 33000, 39000, 43000] with
    pll := { Pll.reset with
      ctime := .ticks 42000
      writeStart := .ticks 32000
      wbuf := [.ticks 33000, .ticks 37000, .ticks 41000] } }

theorem test_commit : (after (.commit (.ticks 42000)) writing).map
    (fun t => (t.medium.flux, t.pll.writeStart, t.pll.wbuf)) =
    some ([31000, 33000, 37000, 41000, 43000], .ticks 42000, []) := by decide

theorem test_stop_writing : (after (.stopWriting (.ticks 42000)) writing).map
    (fun t => (t.medium.flux, t.pll.writeStart)) = some ([31000, 33000, 37000, 41000, 43000], .never) := by decide

/-- 41_write_encoder R170: 0x4E after a 0, and 0x00 after a 1. -/
theorem test_encode_mfm : (after (.encodeMfm 0x4E) State.reset).map (fun t => (t.live.wsr, t.live.dataReg)) =
    some (0x9254, 0x4E) := by decide

theorem test_encode_mfm_after_one : (after (.encodeMfm 0x00)
    { State.reset with live := { Live.reset with dataReg := 0xA1 } }).map (fun t => t.live.wsr) = some 0x2AAA := by decide

theorem test_encode_fm : (after (.encodeFm 0xFE) State.reset).map (fun t => t.live.wsr) = some 0xFFFE := by decide

theorem test_load_raw : (after (.loadRaw 0x4489) State.reset).map (fun t => (t.live.wsr, t.live.dataReg)) =
    some (0x4489, 0xA1) := by decide

/-- Examples of 42_crc R190 and R191. -/
theorem test_crc_bit : (after (.crcBit false) State.reset).map (fun t => t.live.crc) = some 0xEFDF := by decide

theorem test_crc_byte : (after (.crcByte 0xA1) State.reset).map (fun t => t.live.crc) = some 0x443B := by decide

theorem test_crc_seed : (after .crcSeed { State.reset with live := { Live.reset with crc := 0x1234 } }).map
    (fun t => t.live.crc) = some 0xFFFF := by decide

/-- Example of 43_read_states R200. -/
theorem test_read_one_bit : (after (.readOneBit .never)
    { engine .searchAddressMarkHeader [1000] with
      live := { Live.reset with shiftReg := 0x2244, bitCounter := 14, drive := some 0, dataReg := 0x50, crc := 0x1234 } }).map
    (fun t => (t.outcome, t.live.shiftReg, t.live.bitCounter, t.live.dataReg, t.live.crc)) =
    some (.cont1, 0x4489, 15, 0x50, 0x1234) := by decide

/-- Example of 44_write_states R230: the second cell of 0x4489, a data cell 1. -/
theorem test_write_one_bit : (after (.writeOneBit .never)
    { engine .writeSectorDataByte [] with live := { Live.reset with wsr := 0x8912, bitCounter := 1, drive := some 0 } }).map
    (fun t => (t.live.wsr, t.live.crc, t.pll.wbuf, t.live.bitCounter)) = some (0x1224, 0xFFFE, [.ticks 1000], 2) := by decide

/-- Example of 45_live_control R261. -/
theorem test_live_start : (after (.liveStart 0 .searchAddressMarkData) { State.reset with now := 384000 }).map
    (fun t => (t.live.tm, t.pll.ctime, t.pll.period, t.live.crc, t.snap.live.state)) =
    some (.ticks 384000, .ticks 384000, 2000, 0xFFFF, .searchAddressMarkData) := by decide

theorem test_live_run : (after (.liveRun (.ticks 4500)) (engine .searchAddressMarkHeader [1000])).map
    (fun t => (t.outcome, t.pll.ctime, t.live.shiftReg)) = some (.suspended, .ticks 4000, 2) := by decide

theorem test_live_run_in_idle : (after (.liveRun .never) State.reset).map (fun t => t.outcome) = some .notRunning := by
  decide

theorem test_checkpoint : (after .checkpoint (engine .readIdBlock [])).map (fun t => t.snap.live.state) =
    some .readIdBlock := by decide

theorem test_rollback : (after .rollback (engine .readIdBlock [])).map (fun t => (t.live.state, t.live.drive)) =
    some (.idle, none) := by decide

/-- Program P2 of 95_test_vectors: the transition to IDLE comes due, and is asked for ahead of time. -/
theorem test_live_sync : (after .liveSync
    { engine .readIdBlock [] with
      live := { Live.reset with
        state := .readIdBlock, nextState := some .idle, drive := some 0, tm := .ticks 384000 }
      now := 384000 }).map
    (fun t => (t.live.state, t.live.tm, t.live.drive, t.live.nextState)) = some (.idle, .never, none, none) := by decide

theorem test_live_delay : (after (.liveDelay .idle)
    { engine .readIdBlock [] with live := { Live.reset with state := .readIdBlock, drive := some 0, tm := .ticks 384000 } }).map
    (fun t => (t.live.state, t.live.nextState, t.wakeups)) = some (.readIdBlock, some .idle, [384000]) := by decide

/-- Program P5 of 95_test_vectors: what was written up to the abort is committed. -/
theorem test_live_abort : (after .liveAbort { writing with live := { writing.live with tm := .ticks 42000 }, now := 42300 }).map
    (fun t => (t.live.state, t.live.drive, t.pll.writeStart, (t.drive 0).med.flux)) =
    some (.idle, none, .never, [31000, 33000, 37000, 41000, 43000]) := by decide

theorem test_reserved_codes : exec (.reservedOp 0x17) State.reset = .refused (.reservedOperation 0x17) ∧
    exec (.reservedState 17) State.reset = .refused (.reservedStateCode 17) := ⟨rfl, rfl⟩

/-- 60_exceptions R364: a state row out of its state executes nothing. -/
theorem test_row_out_of_its_state : (after (.readIdBlock .never) (engine .searchAddressMarkHeader [1000])).map
    (fun t => (t.outcome, t.live.shiftReg)) = some (.notRunning, 0) := by decide

theorem test_idle : (after (.idle .never) State.reset).map (fun t => t.outcome) = some .notRunning := by decide

/-- The engine with fifteen cells of a word in its shift register and the sixteenth, a 1, under the head. -/
def sixteenth (st : LiveState) (shift : Word) (bits : Nat) (data : Byte) : State :=
  { engine st [1000] with
    live := { Live.reset with
      state := st, drive := some 0, tm := .ticks 0, shiftReg := shift, bitCounter := bits, dataReg := data } }

/-- 43_read_states R202: 0x443B after the first sync word; 0xEF21 after the FM mark. -/
theorem test_search_header_mfm : (after (.searchAddressMarkHeader .never) (sixteenth .searchAddressMarkHeader 0x2244 40 0)).map
    (fun t => (t.live.state, t.live.crc, t.live.bitCounter, t.outcome)) =
    some (.readHeaderBlockHeader, 0x443B, 0, .cont) := by decide

theorem test_search_header_fm : (after (.searchAddressMarkHeader .never)
    (inFm { sixteenth .searchAddressMarkHeader 0xFABF 41 0 with
      drives := [Drive.reset { Medium.none with present := true }] })).map
    (fun t => (t.live.state, t.live.crc, t.live.bitCounter)) = some (.readIdBlock, 0xEF21, 0) := by decide

theorem test_header_header : (after (.readHeaderBlockHeader .never) (sixteenth .readHeaderBlockHeader 0x2244 15 0)).map
    (fun t => (t.live.state, t.live.bitCounter)) = some (.readHeaderBlockHeader, 16) := by decide

/-- 43_read_states R203: on going back, `live.bit_counter` is left as it is. -/
theorem test_header_header_wrong_mark : (after (.readHeaderBlockHeader .never)
    (sixteenth .readHeaderBlockHeader 0 47 0x7D)).map (fun t => (t.live.state, t.live.bitCounter)) =
    some (.searchAddressMarkHeader, 48) := by decide

theorem test_read_id : (after (.readIdBlock .never) (sixteenth .readIdBlock 0 95 0x21)).map
    (fun t => (t.live.idbuf.b5, t.live.nextState, t.outcome, t.wakeups)) = some (0x43, some .idle, .delayed, [2000]) := by
  decide

/-- 43_read_states R205: the deleted FM mark; the first cell after the window, 801 in MFM. -/
theorem test_search_data_deleted : (after (.searchAddressMarkData .never)
    (inFm { sixteenth .searchAddressMarkData 0x7AB5 287 0 with
      drives := [Drive.reset { Medium.none with present := true }] })).map
    (fun t => (t.live.state, t.live.crc, t.live.flags)) = some (.readSectorData, 0x8FE7, 1) := by decide

theorem test_search_data_window : (after (.searchAddressMarkData .never) (sixteenth .searchAddressMarkData 0x2244 800 0)).map
    (fun t => (t.live.flags, t.live.nextState)) = some (2, some .idle) := by decide

theorem test_data_header : (after (.readDataBlockHeader .never) (sixteenth .readDataBlockHeader 0 47 0x7D)).map
    (fun t => (t.live.state, t.live.flags, t.live.bitCounter)) = some (.readSectorData, 0, 0) := by decide

theorem test_data_header_missing : (after (.readDataBlockHeader .never) (sixteenth .readDataBlockHeader 0 47 0x7E)).map
    (fun t => (t.live.flags, t.live.nextState)) = some (2, some .idle) := by decide

theorem test_sector_data : (after (.readSectorData .never) (sixteenth .readSectorData 0 8191 0)).map
    (fun t => t.live.nextState) = some (some .readSectorDataByte) := by decide

theorem test_sector_data_end : (after (.readSectorData .never) (sixteenth .readSectorData 0 8223 0)).map
    (fun t => t.live.nextState) = some (some .idle) := by decide

theorem test_sector_data_byte : (after (.readSectorDataByte .never) (sixteenth .readSectorDataByte 0 16 0x5A)).map
    (fun t => (t.fifo, t.live.state, t.snap.live.state)) = some ([0x5A], .readSectorData, .readSectorData) := by decide

theorem test_sector_data_byte_overrun : (after (.readSectorDataByte .never)
    { sixteenth .readSectorDataByte 0 16 0x5A with fifo := List.replicate 16 0 }).map
    (fun t => (t.live.flags, t.live.state, t.live.tm)) = some (4, .idle, .never) := by decide

theorem test_skip_gap2 : (after (.writeSectorSkipGap2 .never) (sixteenth .writeSectorSkipGap2 0 351 0)).map
    (fun t => (t.live.bitCounter, t.live.nextState)) = some (0, some .writeSectorData) := by decide

/-- 44_write_states R233: the first sync byte; the first mark word, after twelve of them. -/
theorem test_write_sector : (after (.writeSectorData .never) (engine .writeSectorData [])).map
    (fun t => (t.live.wsr, t.pll.writeStart, t.live.state)) = some (0xAAAA, .ticks 0, .writeSectorDataByte) := by decide

theorem test_write_sector_mark : (after (.writeSectorData .never)
    { engine .writeSectorData [] with
      live := { Live.reset with state := .writeSectorData, byteCounter := 12, tm := .ticks 0, crc := 7 } }).map
    (fun t => (t.live.wsr, t.live.crc)) = some (0x4489, 0xFFFF) := by decide

/-- An engine with one cell of a word left to write. -/
def lastCell (st : LiveState) (bytes : Nat) : State :=
  { engine st [] with
    live := { Live.reset with state := st, drive := some 0, tm := .ticks 0, bitCounter := 15, byteCounter := bytes } }

theorem test_write_sector_byte : (after (.writeSectorDataByte .never) (lastCell .writeSectorDataByte 11)).map
    (fun t => (t.live.byteCounter, t.live.nextState)) = some (12, some .writeSectorData) := by decide

/-- PRE_LEN is 146 in MFM (44_write_states R236). -/
theorem test_pre_sectors : (after (.writeTrackPreSectors .never)
    { engine .writeTrackPreSectors [] with
      live := { Live.reset with state := .writeTrackPreSectors, byteCounter := 92, tm := .ticks 0 } }).map
    (fun t => (t.live.wsr, t.live.state)) = some (0x5224, .writeTrackPreSectorsByte) := by decide

theorem test_pre_sectors_byte : (after (.writeTrackPreSectorsByte .never) (lastCell .writeTrackPreSectorsByte 145)).map
    (fun t => (t.live.byteCounter, t.live.nextState)) = some (0, some .writeTrackSector) := by decide

theorem test_track_sector : (after (.writeTrackSector .never)
    { engine .writeTrackSector [] with
      live := { Live.reset with state := .writeTrackSector, byteCounter := 16, tm := .ticks 0 }
      fifo := [0x27, 0x01] }).map
    (fun t => (t.live.dataReg, t.fifo, t.live.state)) = some (0x27, [0x01], .writeTrackSectorByte) := by decide

theorem test_track_sector_byte : (after (.writeTrackSectorByte .never) (lastCell .writeTrackSectorByte 3)).map
    (fun t => (t.live.byteCounter, t.live.nextState)) = some (4, some .writeTrackSector) := by decide

theorem test_post_sectors : (after (.writeTrackPostSectors .never) (engine .writeTrackPostSectors [])).map
    (fun t => (t.live.wsr, t.live.state)) = some (0x9254, .writeTrackPostSectorsByte) := by decide

theorem test_post_sectors_byte : (after (.writeTrackPostSectorsByte .never) (lastCell .writeTrackPostSectorsByte 3)).map
    (fun t => (t.live.byteCounter, t.live.nextState)) = some (4, some .writeTrackPostSectors) := by decide

/-! Words under the head, and flags. -/

theorem test_sync_mfm_is_seen : (after .syncMfm (engine .searchAddressMarkHeader [])).map
    (fun t => (t.live.state, t.live.crc)) = some (.readHeaderBlockHeader, 0x443B) := by decide

theorem test_sync_fm_id_is_seen : (after .syncFmId (inFm (engine .searchAddressMarkHeader []))).map
    (fun t => (t.live.state, t.live.crc)) = some (.readIdBlock, 0xEF21) := by decide

/-- What an ID field's first byte is after a word. -/
def firstIdByte (i : Instr) (s : State) : Option Byte := (after i s).map fun t => t.live.idbuf.b0

/-- A word's data byte, whatever its clock cells (30_encoding R112, R115, R116). -/
theorem test_words_are_bytes :
    firstIdByte (.rawWord 0x4489) (engine .readIdBlock []) = some 0xA1 ∧
    firstIdByte (.mfmByte false 0x4E) (engine .readIdBlock []) = some 0x4E ∧
    firstIdByte (.fmByte 0x35) (engine .readIdBlock []) = some 0x35 ∧
    firstIdByte .fmDam (engine .readIdBlock []) = some 0xFB ∧
    firstIdByte .fmDdam (engine .readIdBlock []) = some 0xF8 ∧
    firstIdByte .mfmIam (engine .readIdBlock []) = some 0xC2 ∧
    firstIdByte .fmIam (engine .readIdBlock []) = some 0xFC := by decide

/-- V-RD-4 of 95_test_vectors: two sync words have passed, CRC 968B; the word 1254 sends the engine back to the header
search with bit_counter 32 and crc C175. -/
theorem test_false_sync_in_a_header : (after (.rawWord 0x1254)
    { engine .readHeaderBlockHeader [] with
      live := { Live.reset with
        state := .readHeaderBlockHeader, drive := some 0, tm := .ticks 0, shiftReg := 0x4489, bitCounter := 16, crc := 0x968B } }).map
    (fun t => (t.live.state, t.live.bitCounter, t.live.crc)) = some (.searchAddressMarkHeader, 32, 0xC175) := by decide

/-- 43_read_states R204: the sixth byte of an ID field ends the header run. -/
theorem test_sixth_byte : (after .fmDam (sixteenth .readIdBlock 0 80 0)).map
    (fun t => (t.live.idbuf.b5, t.live.nextState, t.wakeups, t.pll.ctime == t.live.tm)) =
    some (0xFB, some .idle, [32000], true) := by decide

theorem test_mark_bytes_are_bytes :
    firstIdByte .amId (engine .readIdBlock []) = some 0xFE ∧
    firstIdByte .amData (inFm (engine .readIdBlock [])) = some 0xFB ∧
    firstIdByte .amDdata (engine .readIdBlock []) = some 0xF8 ∧
    firstIdByte .amIndex (inFm (engine .readIdBlock [])) = some 0xFC := by decide

/-- 60_exceptions R352, R364: a running engine raises a flag, one in IDLE does not. -/
theorem test_flags : (after .fDamDeleted (engine .searchAddressMarkData [])).map (fun t => t.live.flags) = some 1 ∧
    (after .fDataMarkMissing (engine .searchAddressMarkData [])).map (fun t => t.live.flags) = some 2 ∧
    (after .fOverrun (engine .readSectorData [])).map (fun t => t.live.flags) = some 4 ∧
    (after .fOverrun State.reset).map (fun t => t.live.flags) = some 0 := by decide

/-! Host commands. -/

/-- The head of drive 0 is loaded. -/
def headDown : State := { withFlux [] with ctrl := { State.reset.ctrl with headLoad := true } }

/-- What stands first in the inbox after a command, the step it calls for, and the step after that. -/
def thirdInput (i : Instr) : Option Input :=
  (after i headDown).bind fun t =>
    match step t with
    | .next u =>
      match step u with
      | .next v => v.inbox.head?
      | _ => none
    | _ => none

theorem test_read_data_starts_the_search : (after (.readData (args 2)) headDown).map
    (fun t => (t.ctrl.phase, t.cfg.sectorSize, t.inbox)) = some (.execution, 512, [.client .headLoaded]) ∧
    thirdInput (.readData (args 2)) = some (.request ⟨.op, [0x10], [.ticks 0, .ticks 1]⟩) := by decide

theorem test_read_data_not_ready : (after (.readData (args 2)) State.reset).map
    (fun t => (t.ctrl.phase, t.ctrl.resBuf)) = some (.result, [0x4C, 0, 0, 5, 1, 3, 2]) := by decide

theorem test_read_deleted_data : (after (.readDeletedData (args 2)) (withFlux [])).map
    (fun t => (t.ctrl.phase, t.cfg.damDeleted)) = some (.execution, false) := by decide

theorem test_write_data : (after (.writeData (args 0)) (withFlux [])).map
    (fun t => (t.ctrl.phase, t.cfg.mode, t.cfg.cellNominal)) = some (.execution, .fm, 4000) := by decide

theorem test_write_deleted_data : (after (.writeDeletedData (args 2)) (withFlux [])).map
    (fun t => (t.ctrl.phase, t.cfg.damDeleted)) = some (.execution, true) := by decide

theorem test_read_id_command : (after (.readId 2 0x00) (withFlux [])).map (fun t => (t.ctrl.phase, t.ctrl.job.kind)) =
    some (.execution, .readId) := by decide

theorem test_format_track : (after (.formatTrack 2 0x00 2 9 0x54 0xE5) (withFlux [])).map
    (fun t => (t.ctrl.phase, t.cfg.fmtSectors, t.cfg.fmtGap3, t.cfg.fmtFill, t.inbox)) =
    some (.execution, 9, 0x54, 0xE5, []) := by decide

/-- With the head loaded, the commands whose use of the engine the spec does not describe are over. -/
theorem test_undescribed_commands :
    thirdInput (.readTrack (args 2)) = some (.client .trackDone) ∧
    thirdInput (.scanEqual (args 2)) = some (.client .trackDone) ∧
    thirdInput (.scanLowOrEqual (args 2)) = some (.client .trackDone) ∧
    thirdInput (.scanHighOrEqual (args 2)) = some (.client .trackDone) := by decide

/-- Scenario A of 95_test_vectors: seek end, unit 0, no retry. -/
theorem test_recalibrate : (after (.recalibrate 0 0x00)
    { State.reset with drives := [Drive.reset { Medium.none with ready := true, track0 := true }] }).map
    (fun t => ((t.drive 0).pending, (t.drive 0).retries)) = some (some 0x20, 0) := by decide

theorem test_seek : (after (.seek 0 0x00 2) (withFlux [])).map
    (fun t => ((t.drive 0).pcn, (t.drive 0).steps, (t.drive 0).dirOut)) = some (1, 1, true) := by decide

/-- 47_host_interface R337: INTRQ at a completion. -/
theorem test_specify : (after (.specify 0 0xDF 0x03) State.reset).map
    (fun t => (t.ctrl.spec1, t.ctrl.spec2, t.ctrl.intrq)) = some (0xDF, 0x03, true) := by decide

theorem test_configure : (after (.configure 0 0 0x57 9) State.reset).map
    (fun t => (t.ctrl.conf2, t.ctrl.conf3, t.ctrl.phase)) = some (0x57, 9, .command) := by decide

theorem test_lock : (after (.lock 4) State.reset).map (fun t => (t.ctrl.lock, t.ctrl.resBuf)) = some (true, [0x10]) := by
  decide

theorem test_sense_drive : (after (.senseDriveStatus 0 0x04) (withFlux [])).map (fun t => t.ctrl.resBuf) =
    some [0x24] := by decide

theorem test_sense_interrupt : (after (.senseInterruptStatus 0)
    { State.reset with drives := [{ Drive.reset Medium.none with pending := some 0x20, pcn := 7 }] }).map
    (fun t => (t.ctrl.resBuf, (t.drive 0).pending, (t.drive 0).st0, t.ctrl.intrq)) =
    some ([0x20, 7], none, 0x20, false) := by decide

theorem test_version_and_dump_reg : (after (.version 0) State.reset).map (fun t => t.ctrl.resBuf.length) = some 1 ∧
    (after (.dumpReg 0) State.reset).map (fun t => t.ctrl.resBuf.length) = some 10 := by decide

theorem test_command_in_result_phase_is_ignored :
    (after (.lock 4) { State.reset with ctrl := { State.reset.ctrl with phase := .result } }).map
    (fun t => (t.ctrl.lock, t.ctrl.resBuf)) = some (false, []) := by decide

/-! Around the engine. -/

/-- The state after an event at the present tick. -/
def afterEvent (e : Event) (s : State) : Option State := (deliver e s).toOption

/-- Vector V-RT-1 of 95_test_vectors: 300 kbit/s. -/
theorem test_cell_nominal_is_rounded : cellNominalOf Params.reference 300000 .mfm = 1667 ∧
    cellNominalOf Params.reference 250000 .fm = 4000 := by decide

/-- 44_write_states R236: three MFM_IAM words before the index mark byte, however many SYNC_MFM a field has. -/
theorem test_three_index_mark_words :
    itemAt (preRuns { Params.reference with mfmSyncCount := 1 } .mfm) 94 = .raw 0x5224 ∧
    itemAt (preRuns { Params.reference with mfmSyncCount := 1 } .mfm) 95 = .fill 0xFC := by decide

/-- 70_reset_and_hazards R402: `cfg` changes under a running engine; it stays where it is. -/
theorem test_cfg_change_while_live :
    (afterEvent (.setCfg { Cfg.reset with mode := .fm }) (engine .readIdBlock [])).map
    (fun t => (t.cfg.mode, t.live.state, t.live.drive)) = some (.fm, .readIdBlock, some 0) := by decide

/-- 60_exceptions R360: a reset overrides what else is due at its tick. -/
theorem test_reset_overrides_its_tick :
    ((afterEvent .softReset State.reset).bind (afterEvent (.fifoPut 1))).map (fun t => t.fifo) = some [] ∧
    ((afterEvent .softReset State.reset).bind fun t => afterEvent (.fifoPut 1) { t with now := 1 }).map
      (fun t => t.fifo) = some [1] := by decide

/-- 20_memory R81, R82: the host side of the FIFO against the direction of the engine. -/
theorem test_host_side_of_the_fifo :
    (afterEvent (.fifoPut 7) (engine .readSectorData [])).map (fun t => t.fifo) = some [] ∧
    (afterEvent .fifoGet { engine .writeSectorData [] with fifo := [7] }).map (fun t => t.fifo) = some [7] ∧
    (afterEvent .fifoGet { engine .readSectorData [] with fifo := [7] }).map (fun t => (t.fifo, t.hostData)) =
      some ([], 7) := by decide

/-- 46_command_engine R308: the head timer ends with HEAD_LOAD_DONE of the command that waits for it. -/
theorem test_head_timer : (sound 9 .head { State.reset with
    ctrl := { State.reset.ctrl with headLoad := true, job := { Job.empty with step := .headLoad } } }).inbox =
    [.client .headLoaded] ∧
    (sound 9 .head { State.reset with ctrl := { State.reset.ctrl with headLoad := true } }).ctrl.headLoad = false := by
  decide

/-! For every statement with hypotheses, a state and operands that meet them, each clause at a boundary of its range. -/

/-- A read of a cell that completes and leaves a state with this property. -/
def readsTo (s : State) (limit : Time) (p : State → Bool) : Bool :=
  match readCell none limit s with
  | none => false
  | some c => p c

/-- A write of a cell that ends this way and leaves a state with this property. -/
def writesTo (s : State) (limit : Time) (go : Bool) (p : State → Bool) : Bool :=
  match writeCell limit s with
  | .ok (g, c) => g == go && p c
  | .error _ => false

/-- The state at another real time. -/
def atTime (n : Nat) (s : State) : State := { s with now := n }

/-- The state with the cursor at NEVER. -/
def cursorless (s : State) : State := { s with pll := { s.pll with ctime := .never } }

/-- The state with write mode entered at a time. -/
def writesFrom (n : Nat) (s : State) : State := { s with pll := { s.pll with writeStart := .ticks n } }

/-- The COMMIT that a deferred transition begins with is refused. -/
def commitRefused (c : State) : Bool :=
  match exec (.commit c.live.tm) c with
  | .refused r => r == .commitOutOfOrder
  | _ => false

/-- The clauses of a deferred transition: after a cell that ends at 2000, `live.tm` ahead of real time, at it with a commit
that completes and one that is refused, before it; at NEVER after a cell that never ends. -/
def meetsDefers (cell : State → (State → Bool) → Bool) (s : State) (p : State → Bool) : Bool :=
  cell s (fun c => p c && decide (c.live.tm = .ticks 2000) && decide (c.now < 2000)) &&
  cell (atTime 2000 s) (fun c => p c && decide (c.live.tm = .ticks c.now) && (after (.commit c.live.tm) c).isSome) &&
  cell (writesFrom 3000 (atTime 2000 s)) (fun c => p c && decide (c.live.tm = .ticks c.now) && commitRefused c) &&
  cell (atTime 2001 s) (fun c => p c && decide (c.live.tm = .ticks 2000) && decide (2000 < c.now)) &&
  cell (cursorless s) (fun c => p c && decide (c.live.tm = .never))

/-- A cell read without limit. -/
def aRead (s : State) (p : State → Bool) : Bool := readsTo s .never p

theorem test_witness_StepRunsDecodedInstruction :
    let s := { State.reset with inbox := [.request ⟨.op, [0x0B], []⟩] }
    s.inbox = .request ⟨.op, [0x0B], []⟩ :: [] ∧ decode ⟨.op, [0x0B], []⟩ = .ok .crcSeed := by decide

theorem test_witness_DecodeInvertsEncode : (Instr.rawWord 0x4489).wf = true ∧ (Instr.reservedOp 0xFF).wf = true := by
  decide

theorem test_witness_RawWordsHaveOneReading : (0 : Nat) < 8 ∧ (7 : Nat) < 8 := by decide

theorem test_witness_PllSetClockAndResetResult : (2 : Nat) ≤ 2 ∧ (1 : Nat) < 2 ∧ State.reset.par = Params.reference ∧
    (after (.pllSetClock 2) State.reset).isSome = true := by decide

/-- The limit just before the end of the cell and at it, no transition, one at the very end of the cell; no cursor. -/
theorem test_witness_GetNextBitResult :
    State.reset.pll.ctime = .ticks 0 ∧
    ((2000 : Nat) : Int) = (0 : Nat) + State.reset.pll.period + State.reset.pll.phaseAdjust ∧
    Time.lt (.ticks 1999) (.ticks 2000) = true ∧ Time.lt (.ticks 2000) (.ticks 2000) = false ∧
    Time.lt (.ticks 2000) (mediumNext State.reset (.ticks 0)) = true ∧
    mediumNext (withFlux [2000]) (.ticks 0) = .ticks 2000 ∧ (2000 : Nat) ≤ 2000 ∧
    (cursorless State.reset).pll.ctime = .never := by decide

theorem test_witness_SecondTransitionInCellIsLost :
    (after (.getNextBit .never) (withFlux [1, 1999])).map (fun t => decide (t.outcome ≠ .noBit)) = some true ∧
    (withFlux [1, 1999]).pll.cellEnd = .ticks 2000 ∧
    mediumNext (withFlux [1, 1999]) (withFlux [1, 1999]).pll.ctime = .ticks 1 ∧ 1 ≤ 2000 ∧
    (2000 : Nat) ≤ 2000 ∧ (2000 : Nat) ≤ 2001 := by decide

theorem test_witness_CellsHavePositiveLength : PllSound State.reset.pll ∧ State.reset.pll.ctime = .ticks 0 ∧
    (after (.getNextBit .never) State.reset).map (fun t => decide (t.outcome ≠ .noBit)) = some true :=
  ⟨⟨by decide, by decide, by decide, by decide⟩, rfl, by decide⟩

/-- Transitions behind the cursor are no hindrance: the end of the recorded flux. -/
theorem test_witness_SilenceReadsZero :
    let s := { withFlux [5] with pll := { Pll.reset with ctime := .ticks 5 } }
    s.pll.ctime = .ticks 5 ∧ ((2005 : Nat) : Int) = (5 : Nat) + s.pll.period + s.pll.phaseAdjust ∧ 5 ≤ 2005 ∧
    ∀ t : Nat, 5 ≤ t → mediumNext s (.ticks t) = .never := by
  refine ⟨rfl, by decide, by decide, fun t ht => ?_⟩
  have h : ¬ t < 5 := by omega
  show Memory.next [5] t = .never
  simp [Memory.next, h]

theorem test_witness_WriteNextBitResult :
    State.reset.pll.ctime = .ticks 0 ∧ State.reset.pll.writeStart = .never ∧
    (writesFrom 0 State.reset).pll.writeStart = .ticks 0 ∧
    Time.lt (.ticks 1999) (.ticks (0 + State.reset.pll.period)) = true ∧
    Time.lt (.ticks 2000) (.ticks (0 + State.reset.pll.period)) = false ∧
    (List.replicate 31 (Time.ticks 0)).length < State.reset.par.wbufLen ∧
    State.reset.par.wbufLen ≤ (List.replicate 32 (Time.ticks 0)).length := by decide

/-- Not in write mode, an empty span, a span to NEVER, a buffered transition at the end of the span. -/
theorem test_witness_CommitReplacesSpan :
    State.reset.pll.writeStart = .never ∧ writing.pll.writeStart = .ticks 32000 ∧
    Time.lt (.ticks 32000) (.ticks 41001) = true ∧ (∀ x ∈ writing.pll.wbuf, Time.lt x (.ticks 41001) = true) ∧
    Time.lt (.ticks 32000) .never = true ∧ (∀ x ∈ writing.pll.wbuf, Time.lt x .never = true) ∧
    writing.currentDrive < writing.drives.length ∧ writing.medium.present = true ∧ writing.medium.wp = false ∧
    State.reset.medium.present = false ∧ Time.ticks 41000 ≠ .ticks 32000 ∧
    (∃ x ∈ writing.pll.wbuf, Time.lt x (.ticks 41000) = false) ∧ Time.lt (.ticks 31999) (.ticks 32000) = true := by
  decide

theorem test_witness_StartAndStopWritingResult :
    State.reset.pll.writeStart = .never ∧ writing.pll.writeStart = .ticks 32000 ∧
    (Time.lt (.ticks 32000) (.ticks 41001) = true ∧ ∀ x ∈ writing.pll.wbuf, Time.lt x (.ticks 41001) = true) ∧
    (Time.ticks 31999 ≠ .ticks 32000 ∧ Time.lt (.ticks 31999) (.ticks 32000) = true) := by decide

/-- Eight cells written from 5000 with period 2000. -/
def cells : List Bool := [true, false, false, true, true, false, true, false]

theorem test_witness_WrittenCellsReadBack :
    let p := { Pll.reset with ctime := .ticks 5000 }
    Memory.wf [1000, 7000, 22000] = true ∧ 1 ≤ 1000 ∧ p.period = 2 * 1000 ∧ p.writeStart = .never ∧
    p.ctime = .ticks 5000 ∧ (writeAll Params.reference cells p).isOk = true ∧ p.phaseAdjust = 0 ∧
    p.minPeriod ≤ p.period ∧ p.period ≤ p.maxPeriod ∧
    Memory.has [1000, 7000, 22000] (5000 + cells.length * p.period) = false := by decide

theorem test_witness_WordsAndItemsAreLoaded : State.reset.cfg.tcDone = false ∧ State.reset.fifo = [] ∧
    ({ State.reset with fifo := [7] } : State).fifo = 7 :: [] ∧ ({ Cfg.reset with tcDone := true } : Cfg).tcDone = true := by
  decide

theorem test_witness_OneCellResult :
    Pll.getNextBit State.reset.par (mediumNext State.reset State.reset.pll.ctime) (.ticks 1999) State.reset.pll = none ∧
    (Pll.getNextBit State.reset.par (mediumNext State.reset State.reset.pll.ctime) (.ticks 2000) State.reset.pll).isSome =
      true ∧
    State.reset.pll.writeNextBit State.reset.par false (.ticks 1999) =
      .ok (false, { Pll.reset with writeStart := .ticks 0 }) ∧
    State.reset.pll.writeNextBit State.reset.par false (.ticks 2000) =
      .ok (true, { Pll.reset with writeStart := .ticks 0, ctime := .ticks 2000 }) ∧
    ({ Pll.reset with writeStart := .ticks 0, wbuf := List.replicate 32 (.ticks 0) } : Pll).writeNextBit
      State.reset.par true .never = .error (.fault .writeBufferOverflow) := by decide

/-- A 0 cell comes next. -/
def zeroNext (s : State) : State := { s with drives := [Drive.reset { Medium.none with present := true }] }

theorem test_witness_HeaderSearchResult :
    (engine .searchAddressMarkHeader []).live.state ≠ .readHeaderBlockHeader ∧
    (engine .searchAddressMarkHeader []).live.nextState = none ∧
    readCell none (.ticks 1999) (engine .searchAddressMarkHeader []) = none ∧
    aRead (sixteenth .searchAddressMarkHeader 0x2244 15 0)
      (fun c => c.cfg.mode == .mfm && c.live.shiftReg == c.par.syncMfm) = true ∧
    aRead (inFm (zeroNext (sixteenth .searchAddressMarkHeader 0xFABF 15 0)))
      (fun c => c.cfg.mode == .fm && c.live.shiftReg == c.par.syncFmId) = true ∧
    aRead (engine .searchAddressMarkHeader []) (fun c => c.live.shiftReg == 0) = true ∧
    (inFm State.reset).cfg.mode = .fm ∧ readCell none (.ticks 1999) (engine .readHeaderBlockHeader []) = none ∧
    aRead (sixteenth .readHeaderBlockHeader 0 0 0) (fun c => decide (c.live.bitCounter % 16 ≠ 0)) = true ∧
    aRead (sixteenth .readHeaderBlockHeader 0x2244 31 0)
      (fun c => c.live.bitCounter % 16 == 0 && decide (c.live.bitCounter / 16 < c.par.mfmSyncCount)) = true ∧
    aRead (zeroNext (sixteenth .readHeaderBlockHeader 0 47 0x7F)) (fun c => c.live.bitCounter % 16 == 0 &&
      decide (c.par.mfmSyncCount ≤ c.live.bitCounter / 16) && c.live.dataReg == c.par.amId) = true ∧
    aRead (sixteenth .readHeaderBlockHeader 0 47 0x7F) (fun c => c.live.bitCounter % 16 == 0 &&
      decide (c.par.mfmSyncCount ≤ c.live.bitCounter / 16) && c.live.dataReg != c.par.amId) = true := by decide

theorem test_witness_ReadIdResult :
    readCell none (.ticks 1999) (engine .readIdBlock []) = none ∧
    aRead (sixteenth .readIdBlock 0 1 0) (fun c => decide (c.live.bitCounter % 16 ≠ 0)) = true ∧
    aRead (sixteenth .readIdBlock 0 79 0)
      (fun c => c.live.bitCounter % 16 == 0 && c.live.bitCounter / 16 - 1 == 4) = true ∧
    meetsDefers aRead (sixteenth .readIdBlock 0 95 0)
      (fun c => c.live.bitCounter % 16 == 0 && c.live.bitCounter / 16 - 1 == 5) = true := by decide

/-- The cells 351, 352, 800 and 801 of the MFM window. -/
theorem test_witness_SearchDataResult :
    readCell none (.ticks 1999) (engine .searchAddressMarkData []) = none ∧
    meetsDefers aRead (sixteenth .searchAddressMarkData 0 800 0) (fun c => decide (352 + 448 < c.live.bitCounter)) = true ∧
    aRead (sixteenth .searchAddressMarkData 0x2244 350 0) (fun c => decide (c.live.bitCounter < 352)) = true ∧
    aRead (sixteenth .searchAddressMarkData 0x2244 351 0)
      (fun c => c.live.bitCounter == 352 && c.live.shiftReg == c.par.syncMfm) = true ∧
    aRead (sixteenth .searchAddressMarkData 0x2244 799 0)
      (fun c => c.live.bitCounter == 800 && c.live.shiftReg == c.par.syncMfm) = true ∧
    aRead (inFm (sixteenth .searchAddressMarkData 0x7AB7 351 0))
      (fun c => c.live.bitCounter == 352 && c.live.shiftReg == c.par.fmDam) = true ∧
    aRead (inFm (zeroNext (sixteenth .searchAddressMarkData 0x7AB5 175 0)))
      (fun c => c.live.bitCounter == 176 && c.live.shiftReg == c.par.fmDdam && c.par.fmDdam != c.par.fmDam) = true ∧
    aRead (sixteenth .searchAddressMarkData 0 400 0)
      (fun c => c.live.bitCounter == 401 && c.live.shiftReg != c.par.syncMfm) = true := by decide

theorem test_witness_DataMarkResult :
    (inFm State.reset).cfg.mode = .fm ∧ State.reset.cfg.mode = .mfm ∧
    readCell none (.ticks 1999) (engine .readDataBlockHeader []) = none ∧
    aRead (sixteenth .readDataBlockHeader 0x2244 31 0)
      (fun c => decide (c.live.bitCounter / 16 < c.par.mfmSyncCount) && c.live.shiftReg == c.par.syncMfm) = true ∧
    aRead (sixteenth .readDataBlockHeader 0 47 0x7D)
      (fun c => c.live.bitCounter == 48 && c.live.dataReg == c.par.amData) = true ∧
    aRead (zeroNext (sixteenth .readDataBlockHeader 0 47 0x7C))
      (fun c => c.live.bitCounter == 48 && c.live.dataReg == c.par.amDdata && c.par.amDdata != c.par.amData) = true ∧
    meetsDefers aRead (sixteenth .readDataBlockHeader 0 31 0)
      (fun c => c.live.bitCounter == 32 && c.live.shiftReg != c.par.syncMfm) = true ∧
    meetsDefers aRead (sixteenth .readDataBlockHeader 0 47 0) (fun c => c.live.bitCounter == 48 &&
      c.live.dataReg != c.par.amData && c.live.dataReg != c.par.amDdata) = true := by decide

/-- The last data byte, the first and the second CRC byte of a sector of 512; the FIFO one byte short of full and full. -/
theorem test_witness_SectorDataResult :
    readCell none (.ticks 1999) (engine .readSectorData []) = none ∧
    aRead (sixteenth .readSectorData 0 0 0) (fun c => c.live.bitCounter == 1) = true ∧
    meetsDefers aRead (sixteenth .readSectorData 0 8191 0) (fun c => c.live.bitCounter == 512 * 16) = true ∧
    aRead (sixteenth .readSectorData 0 8207 0) (fun c => c.live.bitCounter == 513 * 16) = true ∧
    meetsDefers aRead (sixteenth .readSectorData 0 8223 0) (fun c => c.live.bitCounter == 514 * 16) = true ∧
    (engine .readSectorDataByte []).live.state = .readSectorDataByte ∧
    (engine .readSectorDataByte []).live.tm = .ticks (engine .readSectorDataByte []).now ∧
    (atTime 1 (engine .readSectorDataByte [])).live.tm ≠ .ticks 1 ∧ State.reset.pll.writeStart = .never ∧
    (engine .readSectorDataByte []).live.drive ≠ none ∧
    (after (.commit (.ticks 42000)) { writing with live := { writing.live with tm := .ticks 42000 } }).isSome = true ∧
    commitRefused (writesFrom 3000 (engine .readSectorDataByte [])) = true ∧
    State.reset.cfg.tcDone = false ∧ ({ Cfg.reset with tcDone := true } : Cfg).tcDone = true ∧
    (List.replicate 15 (0 : Byte)).length < State.reset.par.fifoSize ∧
    State.reset.par.fifoSize ≤ (List.replicate 16 (0 : Byte)).length := by decide

theorem test_witness_SkipGap2Result :
    readCell none (.ticks 1999) (engine .writeSectorSkipGap2 []) = none ∧
    aRead (sixteenth .writeSectorSkipGap2 0 350 0) (fun c => decide (c.live.bitCounter < 22 * 16)) = true ∧
    meetsDefers aRead (sixteenth .writeSectorSkipGap2 0 351 0) (fun c => decide (22 * 16 ≤ c.live.bitCounter)) = true := by
  decide

/-- The engine at item `k` of a sector. -/
def atItem (k : Nat) : State :=
  let s := engine .writeSectorData []
  { s with live := { s.live with byteCounter := k } }

/-- The items of 41 bytes around 512 data bytes: the first, the last, and END after it, at `live.tm` and at another time;
outside write mode, with a byte to commit, with a commit out of order. -/
theorem test_witness_LoadStatesResult :
    let s := engine .writeSectorData []
    s.live.state = .writeSectorData ∧ s.live.nextState = none ∧ (atTime 1 s).live.tm ≠ .ticks 1 ∧
    s.live.tm = .ticks s.now ∧ s.live.byteCounter = 0 ∧ itemAt (sectorRuns s.par s.cfg) 0 ≠ .stop ∧
    s.pll.writeStart = .never ∧ (writesFrom 0 s).pll.writeStart = .ticks s.now ∧
    itemAt (sectorRuns s.par s.cfg) 530 ≠ .stop ∧ itemAt (sectorRuns s.par s.cfg) 531 = .stop ∧
    (atItem 531).live.byteCounter = 531 ∧ (atTime 1 (atItem 531)).live.tm ≠ .ticks 1 ∧
    (after (.commit (.ticks 42000)) { writing with live := { writing.live with tm := .ticks 42000 } }).isSome = true ∧
    (after (.stopWriting (.ticks 42000)) writing).isSome = true ∧ commitRefused (writesFrom 3000 (atItem 531)) = true := by
  decide

/-- 44_write_states R234: END commits and ends in IDLE at its own time, and is refused at any other. -/
theorem test_end_of_a_sector : (after (.writeSectorData .never) (atItem 531)).map (fun t => (t.live.state, t.outcome)) =
    some (.idle, .delayed) ∧ after (.writeSectorData .never) (atTime 1 (atItem 531)) = none := by decide

/-- A cell written without limit. -/
def aWrite (s : State) (p : State → Bool) : Bool := writesTo s .never true p

theorem test_witness_EmitStatesResult :
    writesTo (engine .writeSectorDataByte []) (.ticks 1999) false (fun _ => true) = true ∧
    (writeCell .never { engine .writeSectorDataByte [] with
      live := { Live.reset with wsr := 0x8000 }
      pll := { Pll.reset with writeStart := .ticks 0, wbuf := List.replicate 32 (.ticks 0) } }).isOk = false ∧
    aWrite (engine .writeTrackSectorByte []) (fun c => decide (c.live.bitCounter < 16)) = true ∧
    aWrite (lastCell .writeTrackPreSectorsByte 145) (fun c => decide (16 ≤ c.live.bitCounter) &&
      decide (c.live.tm = .ticks 2000) && decide (c.now < 2000) &&
      (c.live.byteCounter + 1) % 2 ^ c.par.counterBits == preLen c.par c.cfg.mode) = true ∧
    aWrite (atTime 2000 (lastCell .writeSectorDataByte 3)) (fun c => decide (16 ≤ c.live.bitCounter) &&
      decide (c.live.tm = .ticks c.now) && (after (.commit c.live.tm) c).isSome) = true ∧
    aWrite (writesFrom 3000 (atTime 2000 (lastCell .writeTrackSectorByte 3))) commitRefused = true ∧
    aWrite (atTime 2001 (lastCell .writeTrackPostSectorsByte 3)) (fun c => decide (16 ≤ c.live.bitCounter) &&
      decide (c.live.tm = .ticks 2000)) = true ∧
    aWrite (cursorless (lastCell .writeTrackPostSectorsByte 3)) (fun c => decide (c.live.tm = .never)) = true := by decide

theorem test_witness_WriteTablesResult : State.reset.par.mfmSyncCount = 3 ∧ State.reset.cfg.mode = .mfm ∧
    (inFm State.reset).cfg.mode = .fm ∧ 12 = State.reset.par.syncLen.get State.reset.cfg.mode ∧
    531 ≤ 12 + 6 + State.reset.cfg.sectorSize + State.reset.par.postGapLen ∧
    145 < preLen State.reset.par .mfm ∧ 573 < itemLen State.reset.par State.reset.cfg := by decide

theorem test_witness_LiveStartResult :
    (engine .readIdBlock []).live.drive ≠ none ∧ State.reset.live.drive = none ∧ State.reset.par.ndrives ≤ 4 ∧
    3 < State.reset.par.ndrives ∧ State.reset.cfg.fmtSectors = 0 ∧ 2 ≤ State.reset.cfg.cellNominal ∧
    ({ State.reset.cfg with cellNominal := 1 } : Cfg).cellNominal < 2 ∧
    ({ State.reset.cfg with fmtSectors := 1 } : Cfg).fmtSectors ≠ 0 := by decide

/-- How one turn of the rule of the state ends. -/
def turnOf (limit : Time) (s : State) : Option (OpOutcome × Option LiveState × LiveState) :=
  match stateRule s.live.state none limit s with
  | .ok (t, o) => some (o, t.live.nextState, t.live.state)
  | .error _ => none

/-- An index pulse ahead on the medium, and none. A turn of the loop that goes on after CONT, that goes on after a transition
made on the spot, that ends in IDLE, that is suspended, that leaves a transition behind, that stops. -/
theorem test_witness_LiveRunResult :
    let s := engine .readIdBlock []
    s.pll.ctime = .ticks 0 ∧ turnOf (.ticks 2000) s = some (.cont, none, .readIdBlock) ∧
    turnOf (.ticks 2000) (atTime 2000 (sixteenth .readSectorData 0 8191 0)) =
      some (.delayed, none, .readSectorDataByte) ∧
    turnOf (.ticks 2000) (atTime 2000 (sixteenth .readIdBlock 0 95 0)) = some (.delayed, none, .idle) ∧
    turnOf (.ticks 1999) s = some (.suspended, none, .readIdBlock) ∧
    turnOf (.ticks 2000) (sixteenth .readIdBlock 0 95 0) = some (.delayed, some .idle, .readIdBlock) ∧
    turnOf (.ticks 2000) (atTime 2001 (sixteenth .readIdBlock 0 95 0)) = none ∧
    State.reset.live.state = .idle ∧ ({ s.live with nextState := some .idle } : Live).nextState ≠ none ∧
    mediumNextIndex { s with drives := [Drive.reset { Medium.none with present := true, index := [1] }] } s.now =
      .ticks 1 ∧
    mediumNextIndex s s.now = .never ∧ s.live.state ≠ .idle ∧ s.live.nextState = none := by decide

/-- 40_pll R150, 45_live_control R263: PLL_SET_CLOCK under a running engine leaves a pending phase adjustment that is
longer than the new period; the run goes on from where the cell then ends. -/
theorem test_run_after_a_shorter_clock :
    let s := engine .searchAddressMarkHeader []
    ((after (.pllSetClock 100) { s with pll := { s.pll with ctime := .ticks 5000, phaseAdjust := -1000 } }).bind
      (after (.liveRun (.ticks 5000)))).map (fun t => (t.outcome, t.pll.ctime)) =
    some (.suspended, .ticks 5000) := by decide

/-- A header state, a data header state, an emit state at the last cell of its word. -/
theorem test_witness_RunsEnd :
    let h := engine .readHeaderBlockHeader []
    let s := engine .readDataBlockHeader []
    let w := lastCell .writeTrackSectorByte 0
    PllSound s.pll ∧ s.pll.ctime = .ticks 0 ∧ s.now ≤ 0 ∧ s.live.nextState = none ∧
    s.live.state = .readDataBlockHeader ∧ s.cfg.mode = .mfm ∧ h.live.state = .readHeaderBlockHeader ∧ w.live.state = .writeTrackSectorByte ∧
    w.live.bitCounter ≤ 16 ∧ w.pll.wbuf.length + 16 ≤ w.par.wbufLen ∧ 5 ≤ w.par.counterBits :=
  ⟨⟨by decide, by decide, by decide, by decide⟩, by decide, by decide, by decide, by decide, by decide, by decide, by decide,
    by decide, by decide, by decide⟩

/-- An engine whose checkpoint is its state. -/
def fromCheckpoint : State :=
  let s := engine .searchAddressMarkHeader [1000]
  { s with snap := ⟨s.live, s.pll⟩ }

/-- `live.tm` one tick ahead of real time and at it; a drive live in write mode; a run that confirms nothing of its own. -/
theorem test_witness_CheckpointAndRollbackResult :
    let s := engine .readIdBlock []
    s.live.tm = .ticks 0 ∧ 0 ≤ s.now ∧ s.pll.writeStart = .never ∧ s.live.drive ≠ none ∧ State.reset.live.tm = .never ∧
    ({ s.live with tm := .ticks 1 } : Live).tm = .ticks 1 ∧ s.now < 1 ∧
    (after (.commit (.ticks 0)) s).isSome = true ∧ (after .rollback s).isSome = true ∧
    fromCheckpoint.snap = ⟨fromCheckpoint.live, fromCheckpoint.pll⟩ ∧
    (after (.liveRun (.ticks 4000)) fromCheckpoint).map (fun t =>
      t.snap == fromCheckpoint.snap && t.drives == fromCheckpoint.drives && t.fifo == fromCheckpoint.fifo) =
      some true := by decide

/-- `live.tm` ahead of real time, at it outside write mode and in it, refused, before it, NEVER. -/
theorem test_witness_LiveDelayResult :
    let s := engine .readIdBlock []
    (({ s.live with tm := .ticks 1 } : Live).tm = .ticks 1 ∧ s.now < 1) ∧ State.reset.live.tm = .never ∧
    (s.live.tm = .ticks s.now ∧ s.pll.writeStart = .never) ∧ (after (.commit s.live.tm) s).isSome = true ∧
    commitRefused (writesFrom 3000 s) = true ∧
    ((atTime 1 s).live.tm = .ticks 0 ∧ 0 < (atTime 1 s).now) := by decide

/-- An engine that ran ahead to 4000, at 3000. -/
def ranAhead : State :=
  let s := engine .searchAddressMarkHeader []
  { s with
    live := { s.live with tm := .ticks 4000, bitCounter := 2 }
    pll := { s.pll with ctime := .ticks 4000 }
    snap := ⟨s.live, s.pll⟩
    now := 3000 }

/-- What `ranAhead` reaches when it is rolled back and run again. -/
def ranAgain : Option State := (after .rollback ranAhead).bind (after (.liveRun (.ticks ranAhead.now)))

theorem test_witness_LiveSyncResult :
    let s := engine .readIdBlock []
    State.reset.live.tm = .never ∧ (s.live.tm = .ticks 0 ∧ 0 ≤ s.now ∧ s.pll.writeStart = .never) ∧
    (after (.commit (.ticks 42000)) writing).isSome = true ∧
    (ranAhead.live.tm = .ticks 4000 ∧ ranAhead.now < 4000) ∧
    ranAgain.map (fun u => (u.live.tm, u.now, (after (.commit u.live.tm) u).isSome)) =
      some (.ticks 2000, 3000, true) := by decide

/-- Everything confirmed, no drive live; in write mode; an engine that ran ahead. -/
theorem test_witness_LiveAbortResult :
    State.reset.live.tm = .never ∧ State.reset.live.drive = none ∧ writing.live.tm = .ticks 0 ∧ 0 ≤ writing.now ∧
    writing.live.drive ≠ none ∧
    (after (.stopWriting (.ticks 42000)) { writing with
      live := { writing.live with tm := .ticks 42000 }, now := 42300 }).isSome = true ∧
    (ranAhead.live.tm = .ticks 4000 ∧ ranAhead.now < 4000) ∧
    ranAgain.map (fun u => (u.live.drive, u.pll.writeStart, (after (.stopWriting u.live.tm) u).isSome)) =
      some (some 0, .never, true) := by decide

theorem test_witness_ReservedCodesRefused : (0x17 : Nat) ≤ (0x17 : Byte).toNat ∧ (17 : Nat) ≤ (17 : Byte).toNat := by
  decide

theorem test_witness_FlagsAreRaised : (engine .readSectorData []).live.state ≠ .idle ∧
    (engine .readSectorData []).live.nextState = none ∧ State.reset.live.state = .idle := by decide

/-- The first byte and the sixth; `live.tm` ahead of real time, at it, before it after the word's sixteen cells, NEVER. -/
theorem test_witness_WordIsOneByte :
    (∀ c ∈ [Time.ticks 0, .never], (passPll Params.reference (cellsOf 0x4489) { Pll.reset with ctime := c }).ctime =
      if c = .never then .never else .ticks 32000) ∧
    (31999 < 32000 ∧ (atTime 32000 State.reset).now = 32000 ∧ 32000 < (atTime 32001 State.reset).now) ∧
    wordOf State.reset .syncMfm = some 0x4489 ∧ (engine .readIdBlock []).live.state = .readIdBlock ∧
    (engine .readIdBlock []).live.nextState = none ∧ (engine .readIdBlock []).live.bitCounter = 16 * 0 ∧
    (sixteenth .readIdBlock 0 80 0).live.bitCounter = 16 * 5 ∧ 5 < 6 ∧ 7 ≤ State.reset.par.counterBits := by decide

theorem test_witness_MarksAreRecognised :
    let s := sixteenth .searchAddressMarkData 0 336 0
    (engine .searchAddressMarkHeader []).live.shiftReg = 0 ∧ s.live.state = .searchAddressMarkData ∧
    s.live.nextState = none ∧ s.live.shiftReg = 0 ∧ (inFm s).cfg.mode = .fm ∧ s.par = Params.reference ∧
    336 ≤ s.live.bitCounter ∧ s.live.bitCounter ≤ 784 ∧ 160 ≤ s.live.bitCounter ∧ s.live.bitCounter ≤ 336 ∧
    (sixteenth .readDataBlockHeader 0 16 0).live.bitCounter = 16 * 1 ∧ 1 < 2 ∧
    wordOf State.reset .amId = some 0x5554 ∧ State.reset.live.state = .idle ∧
    (engine .writeSectorData []).live.state ≠ .writeSectorSkipGap2 := by decide

theorem test_witness_IdFieldIsCaptured :
    let s := engine .searchAddressMarkHeader []
    s.par = Params.reference ∧ s.cfg.mode = .mfm ∧ s.live.state = .searchAddressMarkHeader ∧ s.live.nextState = none ∧
    s.live.shiftReg = 0 ∧ PllSound s.pll ∧ s.pll.ctime = .ticks 0 ∧ s.now ≤ 0 :=
  ⟨rfl, rfl, rfl, rfl, rfl, ⟨by decide, by decide, by decide, by decide⟩, by decide, by decide⟩

/-- The controller in a phase. -/
def inPhase (p : Phase) (s : State) : State := { s with ctrl := { s.ctrl with phase := p } }

theorem test_witness_CommandsOutsideCommandPhaseIgnored :
    isHostCommand (.lock 4) = true ∧ (inPhase .result State.reset).ctrl.phase ≠ .command ∧
    heldInReset { State.reset with ctrl := { State.reset.ctrl with dor := 0 } } = true := by decide

theorem test_witness_AnsweringCommandsResult : State.reset.ctrl.phase = .command ∧ heldInReset State.reset = false ∧
    10 ≤ State.reset.par.resBufLen := by decide

/-- Drives 0 and 1 have a pending status. -/
def pendingDrives : State :=
  { State.reset with
    drives := [{ Drive.reset Medium.none with pending := some 0x20 }, { Drive.reset Medium.none with pending := some 0x21 }] }

theorem test_witness_SenseInterruptResult :
    pendingDrives.ctrl.phase = .command ∧ heldInReset pendingDrives = false ∧ 2 ≤ State.reset.par.resBufLen ∧
    0 < pendingDrives.drives.length ∧ (pendingDrives.drive 0).pending = some 0x20 ∧
    (∀ d ∈ State.reset.drives, d.pending = none) := by decide

/-- A drive at track 0 and one that is not, the last drive there is, the ends of the range of cylinders. -/
theorem test_witness_SeekCommandsResult :
    let s := withFlux []
    s.ctrl.phase = .command ∧ heldInReset s = false ∧ 0 = (0x04 : Byte).toNat % 4 ∧ 0 < s.drives.length ∧
    0 < s.par.ndrives ∧ (s.drive 0).med.ready = true ∧ (s.drive 0).med.track0 = false ∧ (s.drive 0).pcn = 0 ∧
    (s.drive 0).pcn ≠ 0xFF ∧ (State.reset.drive 3).med.ready = false ∧ 3 < State.reset.drives.length ∧
    (after (.seek 0 0x00 2) s).map (fun t => ((t.drive 0).mainState, (t.drive 0).pcn == (t.drive 0).target)) =
      some (.seek, false) ∧
    (after (.seek 0 0x00 1) s).map (fun t => ((t.drive 0).mainState, (t.drive 0).pcn == (t.drive 0).target)) =
      some (.seek, true) ∧
    (after (.recalibrate 0 0x00) s).map (fun t => ((t.drive 0).mainState, (t.drive 0).retries)) =
      some (.recalibrate, 0) := by decide

/-- RECALIBRATE below the retry bound and past it: one of them holds of every number of retries. -/
theorem test_witness_SeekCommandsResult_bound :
    (∃ n : Nat, n + 1 ≤ Config.seekRetryBound ∨ Config.seekRetryBound < n + 1) ∧
    ∃ n : Nat, Config.seekRetryBound < n + 1 :=
  ⟨⟨0, by omega⟩, ⟨Config.seekRetryBound, Nat.lt_succ_self _⟩⟩

/-- 46_command_engine R309: one cylinder to go; at the end of the step time the seek is over. -/
theorem test_seek_tick : (after (.seek 0 0x00 1) (withFlux [])).map
    (fun t => ((seekTick 0 t).drive 0).pending) = some (some 0x20) ∧
    (after (.seek 0 0x00 2) (withFlux [])).map
      (fun t => (((seekTick 0 t).drive 0).steps, ((seekTick 0 t).drive 0).pcn)) = some (2, 2) := by decide

/-- A drive that still seeks: the present cylinder has one to go. -/
def seekingDrive : State := (after (.seek 0 0x00 2) (withFlux [])).getD State.reset

/-- 46_command_engine R306: a command for a drive that still seeks ends the seek, its status pending. -/
theorem test_seek_is_interrupted :
    (after (.readData { args 2 with hu := 0x00 }) seekingDrive).map
      (fun t => ((t.drive 0).pending, (t.drive 0).stepAt, (t.drive 0).mainState, t.ctrl.intrq)) =
      some (some 0x60, none, .readData, true) ∧
    (after (.seek 0 0x00 9) seekingDrive).map (fun t => ((t.drive 0).pending, (t.drive 0).target, t.ctrl.intrq)) =
      some (some 0x60, 9, true) := by decide

/-- 92 D49: a drive whose ready line is on and that holds no medium. -/
theorem test_no_medium : (after (.readData (args 2))
    { State.reset with drives := [Drive.reset { Medium.none with ready := true }] }).map
    (fun t => (t.ctrl.phase, t.ctrl.resBuf)) = some (.result, [0x4C, 0, 0, 5, 1, 3, 2]) := by decide

theorem test_witness_DataCommandsStart :
    let s := withFlux []
    s.ctrl.phase = .command ∧ heldInReset s = false ∧ 0 = (args 2).hu.toNat % 4 ∧ 0 < s.par.ndrives ∧
    0 < s.drives.length ∧ (s.drive 0).med.ready = true ∧ (s.drive 0).med.present = true ∧ (s.drive 0).med.wp = false ∧
    JobKind.readData ≠ .readId ∧ s.ctrl.headLoad = false ∧ headDown.ctrl.headLoad = true ∧ (seekingDrive.drive 0).mainState = .seek ∧
    (s.drive 0).mainState ≠ .seek ∧ (s.drive 0).mainState ≠ .recalibrate ∧
    s.cfg.mode = (if (args 2).flags.getLsbD 1 then .mfm else .fm) ∧
    s.cfg.cellNominal = cellNominalOf s.par s.ctrl.rate s.cfg.mode ∧ s.cfg.tcDone = false ∧
    s.cfg.sectorSize = sectorSizeOf (args 2).n ∧ s.cfg.damDeleted = false := by decide

/-- A drive that is not ready, one that does not exist, a protected one. -/
theorem test_witness_CommandsEndBeforeStart :
    let s := { State.reset with drives := [Drive.reset { Medium.none with present := true, ready := true, wp := true }] }
    s.ctrl.phase = .command ∧ heldInReset s = false ∧ 7 ≤ s.par.resBufLen ∧
    headUnitByte (.readId 2 0x04) = some 0x04 ∧ 0 = (0x04 : Byte).toNat % 4 ∧ (State.reset.drive 0).med.ready = false ∧
    0 < s.par.ndrives ∧ (s.drive 0).med.ready = true ∧ (s.drive 0).med.present = true ∧ (s.drive 0).med.wp = true ∧
    headUnitByte (.writeData (args 2)) = some 0x04 ∧ writesMedium (.writeData (args 2)) = true ∧
    targetBytes (.writeData (args 2)) = some [5, 1, 3, 2] := by decide

/-- A format of no sectors is a format: terminal count while the head loads leaves it alone, a drop of the ready line ends
it with C, H, R, N not given, and with the head loaded it ends without the engine (44_write_states R241). -/
theorem test_format_of_no_sectors :
    let s := (after (.formatTrack 2 0x00 2 0 0x54 0xE5) (withFlux [])).getD State.reset
    (clientStep .afterTc s).inbox = [] ∧ (clientStep (.complete 0xC8 0 0) s).freeCount = 4 ∧
    (clientStep .headLoaded s).inbox = [.client .undescribedDone] := by decide

theorem test_witness_FormatAndUndescribedStart :
    let s := withFlux []
    s.ctrl.headLoad = false ∧ headDown.ctrl.headLoad = true ∧ (headDown.drive 0).med.ready = true ∧
    s.ctrl.phase = .command ∧ heldInReset s = false ∧ 0 < s.par.ndrives ∧ 0 < s.drives.length ∧
    7 ≤ s.par.resBufLen ∧ (s.drive 0).med.ready = true ∧ (s.drive 0).med.present = true ∧ (s.drive 0).med.wp = false ∧ (1 : Byte) ≠ 0 ∧
    undescribedArgs (.scanEqual (args 2)) = some (args 2) ∧ (args 2).hu.toNat % 4 = 0 := by decide

/-- An engine in IDLE with these flags and this residue, that a command of this kind has started on drive 0. -/
def stopped (kind : JobKind) (step : JobStep) (flags : BitVec 3) (crc : Word) : State :=
  { State.reset with
    live := { Live.reset with flags := flags, crc := crc, idbuf := ⟨0, 0, 3, 0, 0, 0⟩ }
    ctrl := { State.reset.ctrl with
      phase := .execution
      job := { Job.empty with kind := kind, step := step, r := 3, eot := 9 } } }

/-- The target itself, the same with a bad residue, and another C. -/
theorem test_witness_CapturedIdIsEvaluated :
    let s := stopped .readData .scanId 0 0
    s.ctrl.job.step = .scanId ∧ s.live.state = .idle ∧ 7 ≤ s.par.resBufLen ∧ s.ctrl.job.unit.toNat < s.drives.length ∧
    (stopped .readId .scanId 0 1).ctrl.job.kind = .readId ∧ s.ctrl.job.kind ≠ .readId ∧
    (s.live.crc = 0 ∧ s.live.idbuf.b0 = s.ctrl.job.c ∧ s.live.idbuf.b1 = s.ctrl.job.h ∧
      s.live.idbuf.b2 = s.ctrl.job.r ∧ s.live.idbuf.b3 = s.ctrl.job.n) ∧
    (stopped .readData .scanId 0 1).live.crc ≠ 0 ∧ s.live.idbuf.b0 ≠ 0xFF := by decide

theorem test_witness_DataRunIsReported :
    let run := stopped .readData .dataField
    (run 2 0).ctrl.job.step = .dataField ∧ (run 2 0).live.state = .idle ∧ (run 2 0).ctrl.job.kind = .readData ∧
    7 ≤ (run 2 0).par.resBufLen ∧ (run 2 0).live.flags.getLsbD 1 = true ∧
    ((run 4 0).live.flags.getLsbD 1 = false ∧ (run 4 0).live.flags.getLsbD 2 = true) ∧
    ((run 0 1).live.flags.getLsbD 1 = false ∧ (run 0 1).live.flags.getLsbD 2 = false ∧ (run 0 1).live.crc ≠ 0) ∧
    ((run 1 0).live.crc = 0 ∧ (run 1 0).live.flags.getLsbD 0 ≠ ((run 1 0).ctrl.job.kind == .readDeleted)) := by decide

/-- A sector before the end of the track, and at it: no MT, MT on side 0 and on side 1. -/
theorem test_witness_SectorEndIsReported :
    let s := stopped .readData .dataField 0 0
    let j := s.ctrl.job
    let last : Job := { j with r := 9 }
    j.step = .dataField ∧ s.live.state = .idle ∧ 7 ≤ s.par.resBufLen ∧ j.unit.toNat < s.drives.length ∧
    (stopped .writeData .dataField 4 0).live.flags.getLsbD 2 = true ∧
    (s.live.flags.getLsbD 1 = false ∧ s.live.flags.getLsbD 2 = false ∧ s.live.crc = 0 ∧
      s.live.flags.getLsbD 0 = (j.kind == .readDeleted)) ∧
    j.r ≠ j.eot ∧ (last.r = last.eot ∧ last.mt = false) ∧
    (({ last with mt := true } : Job).mt = true ∧ last.h = 0) ∧ ({ last with h := 1 } : Job).h = 1 ∧
    s.ctrl.tc = false ∧ ({ s.ctrl with tc := true } : Controller).tc = true := by decide

theorem test_witness_TerminalCountResult :
    State.reset.resetAt ≠ some State.reset.now ∧ (stopped .readData .dataField 0 0).ctrl.job.step = .dataField ∧
    (engine .readSectorData []).live.state ≠ .idle ∧ (stopped .readData .scanId 0 0).ctrl.job.step = .scanId ∧
    (stopped .readData .headLoad 0 0).ctrl.job.kind ≠ .format ∧ (stopped .readData .headLoad 0 0).ctrl.job.kind ≠ .undescribed ∧
    (stopped .readData .draining 0 0).ctrl.job.step = .draining ∧ (stopped .format .formatWait 0 0).ctrl.job.step = .formatWait ∧
    (stopped .format .headLoad 0 0).ctrl.job.kind = .format ∧
    (stopped .format .formatting 0 0).ctrl.job.step = .formatting ∧ State.reset.ctrl.job.step = .none ∧
    fieldInFlight .searchAddressMarkData = true ∧ inFormat .writeTrackPreSectors = true ∧
    (fieldInFlight .idle = false ∧ inFormat .idle = false) ∧ (stopped .readData .scanId 0 0).ctrl.job.kind ≠ .readId ∧
    7 ≤ State.reset.par.resBufLen := by decide

/-- 60_exceptions R358: a command of drive 0 waits for its head while a run is live on drive 1; drive 0 is not ready: the
command ends and the run is left alone. -/
theorem test_not_ready_of_a_drive_not_live :
    let s := stopped .readData .headLoad 0 0
    let live := { s with live := { s.live with drive := some 1, state := .readIdBlock } }
    (afterEvent (.notReady 0) live).map (fun t => (t.live.drive, t.live.state, t.inbox)) =
      some (some 1, .readIdBlock, [.client (.complete 0xC8 0 0)]) := by decide

/-- The live drive, the drive of the command in execution, another drive; the pulse before the limit and at it. -/
theorem test_witness_NotReadyAndIndexResult :
    State.reset.resetAt ≠ some State.reset.now ∧ 3 < State.reset.drives.length ∧ 3 < 4 ∧
    (engine .readIdBlock []).live.drive = some 0 ∧
    ((stopped .readData .scanId 0 0).ctrl.job.step ≠ .none ∧ (stopped .readData .scanId 0 0).ctrl.job.step ≠ .draining ∧
      (stopped .readData .scanId 0 0).ctrl.job.unit.toNat = 0 ∧ (stopped .readData .scanId 0 0).live.drive ≠ some 0) ∧
    (State.reset.live.drive ≠ some 3 ∧ State.reset.ctrl.job.step = .none) ∧ (0x48 : Byte) ≠ 0 ∧
    State.reset.par.idIndexLimit ≤ 1 + 1 ∧ 0 + 1 < State.reset.par.idIndexLimit ∧
    (stopped .format .formatWait 0 0).ctrl.job.step = .formatWait ∧ (stopped .format .formatting 4 0).ctrl.job.kind = .format ∧
    (stopped .format .formatting 4 0).live.flags.getLsbD 2 = true ∧
    (stopped .format .formatting 0 0).live.flags.getLsbD 2 = false := by decide

/-- No drive live; no change; `cfg.tc_done` after a checkpoint; any other write. -/
theorem test_witness_ConfigWriteResult :
    let s := engine .readSectorData []
    let c := { s with snap := ⟨s.live, s.pll⟩ }
    s.resetAt ≠ some s.now ∧ State.reset.live.drive = none ∧ c.snap = ⟨c.live, c.pll⟩ ∧
    ¬(s.live.drive = none ∨ { s.cfg with tcDone := true } = s.cfg ∨
      ({ s.cfg with tcDone := true } = { s.cfg with tcDone := true } ∧ s.snap = ⟨s.live, s.pll⟩)) := by decide

/-- A command of one byte, the first byte of a longer one, a byte that is no command; the FIFO one short of full and
full; the last byte and one before it. -/
theorem test_witness_DataRegisterByPhase :
    let run := stopped .readData .dataField 0 0
    heldInReset State.reset = false ∧ State.reset.ctrl.phase = .command ∧ State.reset.ctrl.cmdBuf.length < State.reset.par.cmdBufLen ∧
    (commandLength 0x94).getD 1 = 1 ∧ (commandLength 0x46).getD 1 = 9 ∧ commandLength 0x1F = none ∧
    1 ≤ State.reset.par.resBufLen ∧ (inPhase .result State.reset).ctrl.phase = .result ∧ run.fifo = [] ∧
    (inPhase .result (stopped .senseInterrupt .none 0 0)).ctrl.job.kind = .senseInterrupt ∧
    run.ctrl.phase = .execution ∧ run.ctrl.job.kind.toMedium = false ∧ JobKind.toMedium .writeData = true ∧
    (List.replicate 15 (0 : Byte)).length < State.reset.par.fifoSize ∧ engineEnqueues .idle = false ∧
    State.reset.par.fifoSize ≤ (List.replicate 16 (0 : Byte)).length ∧ run.ctrl.job.kind.toHost = true ∧
    engineDequeues .idle = false ∧ run.ctrl.job.step ≠ .draining ∧
    (stopped .readData .draining 0 0).ctrl.job.step = .draining ∧ State.reset.resetAt ≠ some State.reset.now ∧
    engineEnqueues .readSectorData = true ∧ engineDequeues .writeSectorSkipGap2 = true := by decide

/-- 93_implementation_defined: a read of offset 6 answers any value; a write there has no answer and is refused (R331). -/
theorem test_offset_six : (afterEvent (.hostRead 6) State.reset).map (fun t => t.freeCount) = some 1 ∧
    afterEvent (.hostWrite 6 0) State.reset = none := by decide

theorem test_witness_HostRegistersResult :
    (0x02 : Byte).getLsbD 7 = false ∧ (0x04 : Byte).getLsbD 2 = State.reset.ctrl.dor.getLsbD 2 ∧
    (0x04 : Byte).getLsbD 2 = true ∧ (0x00 : Byte).getLsbD 2 = false ∧ 3 < 4 ∧ 3 < State.reset.drives.length := by decide

/-- A state in which LIVE_ABORT is refused: a buffered transition lies ahead of `live.tm`. -/
def abortRefused : State :=
  { writing with
    live := { writing.live with tm := .ticks 40000 }
    now := 40000
    ctrl := { writing.ctrl with dor := 0x04, lock := true, conf1 := 1, conf2 := 0x57, conf3 := 9 } }

/-- 60_exceptions R360: a reset completes also where its LIVE_ABORT would be refused; the medium stays. -/
theorem test_reset_overrides_a_refused_abort :
    (afterEvent .softReset abortRefused).map (fun t => (t.live.state, t.pll.writeStart, (t.drive 0).med.flux, t.ctrl.conf2)) =
      some (.idle, .never, [31000, 33000, 39000, 43000], 0x57) ∧
    (afterEvent .hardReset abortRefused).map (fun t => (t.live.state, t.ctrl.conf2)) = some (.idle, 0) := by decide

/-- LIVE_ABORT that completes and that is refused; the lock set and not set. -/
theorem test_witness_SoftResetTwiceIsOnce : (abort (engine .readIdBlock [1000])).isOk = true ∧
    (abort abortRefused).isOk = false ∧ abortRefused.ctrl.lock = true ∧ State.reset.ctrl.lock = false := by decide

theorem test_witness_ResetsResult :
    let s := engine .readIdBlock [1000]
    (abort s).isOk = true ∧ (abort abortRefused).isOk = false ∧ s.par = Params.reference ∧ s.resetAt ≠ some s.now ∧
    (0x80 : Byte).getLsbD 7 = true ∧ s.ctrl.dor.getLsbD 2 = true ∧
    (0x00 : Byte).getLsbD 2 = false ∧ (abort { s with ctrl := { s.ctrl with dor := 0 } }).isOk = true ∧
    (abort { abortRefused with ctrl := { abortRefused.ctrl with dor := 0 } }).isOk = false ∧
    (afterEvent .hardReset s).map (fun t => decide (t.resetAt = some t.now)) = some true ∧ (4 : Nat) ≠ 2 ∧ (3 : Nat) ≠ 2 := by
  decide

/-- In each phase, with the FIFO empty and not, with a drive that seeks and one that does not. -/
theorem test_witness_RequestLinesResult :
    State.reset.ctrl.dor.getLsbD 2 = true ∧ (stopped .readData .dataField 0 0).ctrl.phase = .execution ∧
    (inPhase .result State.reset).ctrl.phase = .result ∧ (0 : Nat) < 4 ∧ (3 : Nat) < 4 ∧
    (State.reset.drive 0).mainState ≠ .seek ∧
    (after (.seek 0 0x00 2) (withFlux [])).map (fun t => (t.drive 0).mainState) = some .seek := by decide

/-- Nothing is due. -/
theorem quiet_reset (w i h : Nat) (k : Nat → Nat) : QuietUntil w i h k State.reset := by
  refine ⟨?_, ?_, ?_, ?_⟩
  · intro n h
    cases h
  · intro n h
    cases h
  · intro n h
    cases h
  · intro u n hu h
    have hu : u < 4 := hu
    interval_cases u <;> cases h

/-- The head timer of drive 0's command and a wake-up at one tick, an event one tick later. -/
def twoAlarms : State :=
  { State.reset with
    wakeups := [9]
    inbox := [.event 10 .tc]
    ctrl := { State.reset.ctrl with headLoad := true, headAt := some 9 } }

/-- What the next step leaves. -/
def stepTo (s : State) : Option State :=
  match step s with
  | .next t => some t
  | _ => none

/-- 45_live_control R269, 60_exceptions R360: at one tick the wake-up comes before the head timer. -/
theorem test_wake_up_comes_first : (stepTo twoAlarms).map (fun t => (t.now, t.wakeups, t.inbox, t.ctrl.headAt)) =
    some (9, [], [.request ⟨.op, [0x14], []⟩, .client .afterWake, .event 10 .tc], some 9) := by decide

/-- An engine that reads, with index pulses and a step time ahead. -/
def indexAhead : State :=
  { engine .readIdBlock [] with
    drives := [{ Drive.reset { Medium.none with present := true, index := [7, 8] } with stepAt := some 7 }] }

/-- Nothing due before an event; nothing at all; a wake-up; a head timer; a seek timer; an index pulse ahead. -/
theorem test_witness_SchedulerResult :
    QuietUntil 6 6 6 (fun _ => 6) { State.reset with inbox := [.event 5 .tc] } ∧
    (State.reset.inbox = [] ∧ State.reset.wakeups = [] ∧ nextIndex State.reset = .never ∧ State.reset.ctrl.headAt = none ∧
      ∀ d ∈ State.reset.drives, d.stepAt = none) ∧
    (twoAlarms.wakeups = [9] ∧ twoAlarms.ctrl.headAt = some 9 ∧ 9 ≤ 10) ∧
    (nextIndex indexAhead = .ticks 7 ∧ (indexAhead.drive 0).stepAt = some 7 ∧ indexAhead.live.drive = some 0 ∧
      (indexAhead.drive 0).med.present = true ∧ (indexAhead.drive 0).med.index.wf = true ∧
      indexAhead.live.state ≠ .idle ∧ indexAhead.ctrl.job.step ≠ .headLoad) := by
  refine ⟨quiet_reset 6 6 6 _, ?_, ?_, ?_⟩ <;> decide

/-- The reference parameters meet 00_scope R8's constraints on the PLL. -/
theorem clockSound_reference : ClockSound Params.reference := by
  intro p period h
  have h1 : (p.setClock Params.reference period).minPeriod = period * 75 / 100 := rfl
  have h2 : (p.setClock Params.reference period).maxPeriod = period * 125 / 100 := rfl
  have h3 : (p.setClock Params.reference period).maxAdj = period * 75 / 100 - 1 := rfl
  omega

theorem test_witness_EngineStaysSound :
    EngineSound State.reset ∧ EngineSound { withFlux [] with inbox := [.request (encode (.liveStart 0 .searchAddressMarkHeader))] } ∧
    decode (encode (.liveStart 0 .searchAddressMarkHeader)) = .ok (.liveStart 0 .searchAddressMarkHeader) ∧
    movesAlone (.liveStart 0 .searchAddressMarkHeader) = false ∧
    (stepTo { withFlux [] with inbox := [.request (encode (.liveStart 0 .searchAddressMarkHeader))] }).map
      (fun t => t.live.drive) = some (some 0) :=
  ⟨⟨clockSound_reference, ⟨rfl, rfl, rfl⟩, ⟨rfl, rfl, rfl⟩⟩, ⟨clockSound_reference, ⟨rfl, rfl, rfl⟩, ⟨rfl, rfl, rfl⟩⟩,
    by decide, by decide, by decide⟩

theorem test_witness_StepKeepsCanonicalForm : MediaCanonical (withFlux [1, 2]) ∧ FifoFits (withFlux [1, 2]) ∧
    step (withFlux [1, 2]) = .next (withFlux [1, 2]) := by
  refine ⟨?_, ?_, rfl⟩
  · unfold MediaCanonical Canonical
    decide
  · unfold FifoFits
    decide

end Sys2Proof.Tests
end

section
/-! What an engine operation keeps: whatever it does with the cell, the buffer and the checkpoint, the configuration and the
controller stay, and a sound engine stays sound (10_state R24, R43, 45_live_control R262). -/

namespace Sys2Proof.Proofs

open Sys2Proof.Machine Sys2Proof.Safety Sys2Proof.Laws

/-! Operations that complete. -/

/-- A sequence that completes: its first operation did, and the rest from there. -/
theorem res_bind_ok {α β : Type} {x : Res α} {f : α → Res β} {b : β} (h : x.bind f = .ok b) :
    ∃ a, x = .ok a ∧ f a = .ok b := by
  cases x with
  | error e => cases h
  | ok a => exact ⟨a, rfl, h⟩

/-- A result that is reshaped comes from an operation that completes. -/
theorem res_map_ok {α β : Type} {x : Res α} {f : α → β} {b : β} (h : x.map f = .ok b) :
    ∃ a, x = .ok a ∧ b = f a := by
  cases x with
  | error e => cases h
  | ok a => cases h; exact ⟨a, rfl, rfl⟩

/-- The next state of a step whose operation's result is reshaped. -/
theorem finish_map_next {α : Type} {x : Res α} {f : α → State} {t : State} (h : finish (x.map f) = .next t) :
    ∃ a, x = .ok a ∧ t = f a :=
  res_map_ok (finish_next h)

/-! The cursor and the buffer. -/

/-- The PLL of a live engine at cursor `c`: cells have positive length, and what is buffered lies between the span's start
and the cursor. -/
def CursorSound (c : Nat) (p : Pll) : Prop :=
  PllSound p ∧ p.ctime = .ticks c ∧
    ∀ b : Nat, p.writeStart = .ticks b → b ≤ c ∧ ∀ x ∈ p.wbuf, ∃ n : Nat, x = .ticks n ∧ b ≤ n ∧ n < c

/-- START_WRITING at the cursor opens an empty span there. -/
theorem CursorSound.startWriting {c : Nat} {tm : Time} {p : Pll} (h : CursorSound c p) (htm : tm = .ticks c) :
    CursorSound c (p.startWriting tm) := by
  subst htm
  obtain ⟨hp, hc, -⟩ := h
  refine ⟨hp, hc, ?_⟩
  rintro b ⟨⟩
  simp [Pll.startWriting]

/-- Out of write mode nothing is buffered that counts. -/
theorem CursorSound.stop {c : Nat} {p : Pll} (h : CursorSound c p) : CursorSound c { p with writeStart := .never } := by
  obtain ⟨hp, hc, -⟩ := h
  exact ⟨hp, hc, by rintro b ⟨⟩⟩

/-- The implicit START_WRITING of a write is one at the cursor (41_write_encoder R173). -/
theorem CursorSound.enterWrite {c : Nat} {p : Pll} (h : CursorSound c p) : CursorSound c p.enterWrite := by
  unfold Pll.enterWrite
  split
  · exact h.startWriting h.2.1
  · exact h

/-- A cell of positive length has passed: what was buffered lies before the new cursor too. -/
theorem CursorSound.later {c e : Nat} {p p' : Pll} (h : CursorSound c p) (hp : PllSound p') (he : p'.ctime = .ticks e)
    (hce : c < e) (hs : p'.writeStart = p.writeStart) (hb : p'.wbuf = p.wbuf) : CursorSound e p' := by
  obtain ⟨-, -, hspan⟩ := h
  refine ⟨hp, he, fun b hst => ?_⟩
  rw [hs] at hst
  obtain ⟨hbc, hall⟩ := hspan b hst
  refine ⟨by omega, fun x hx => ?_⟩
  obtain ⟨n, rfl, hbn, hnc⟩ := hall x (hb ▸ hx)
  exact ⟨n, rfl, hbn, by omega⟩

/-- A bit that is given under some limit is given when the limit is the cell's end. -/
theorem getNextBit_at_end {par : Params} {edge limit : Time} {p p' : Pll} {b : Bool}
    (h : p.getNextBit par edge limit = some (b, p')) : p.getNextBit par edge p.cellEnd = some (b, p') := by
  have hl : Time.lt limit p.cellEnd = false := (getNextBit_cases h).2.1
  have hs : Time.lt p.cellEnd p.cellEnd = false := by
    cases p.cellEnd <;> simp [Time.lt]
  unfold Pll.getNextBit at h ⊢
  simp only [hl, hs, Bool.false_eq_true, if_false] at h ⊢
  exact h

/-- GET_NEXT_BIT, under any limit, leaves a sound cursor at the end of the cell (40_pll R154, R158). -/
theorem CursorSound.getNextBit {c : Nat} {par : Params} {edge limit : Time} {p p' : Pll} {b : Bool}
    (h : CursorSound c p) (hb : p.getNextBit par edge limit = some (b, p')) :
    ∃ e : Nat, p'.ctime = .ticks e ∧ CursorSound e p' := by
  have hend : p.cellEnd = .ticks (c + (p.period + p.phaseAdjust)).toNat := by rw [Pll.cellEnd, h.2.1]; rfl
  have hb' := getNextBit_at_end hb
  rw [hend] at hb'
  obtain ⟨hp, e, he, hce, -⟩ := getNextBit_advances h.1 h.2.1 hb'
  obtain ⟨-, -, hbuf, hstart, -⟩ := getNextBit_cases hb
  exact ⟨e, he, h.later hp he hce hstart hbuf⟩

/-- WRITE_NEXT_BIT leaves a sound cursor: where it was, when the cell would exceed the limit, else at the end of the cell
with the cell's transition, if any, inside the span (41_write_encoder R173). -/
theorem CursorSound.writeNextBit {c : Nat} {par : Params} {bit ok : Bool} {limit : Time} {p p' : Pll}
    (h : CursorSound c p) (hw : p.writeNextBit par bit limit = .ok (ok, p')) :
    (ok = false ∧ CursorSound c p') ∨ (ok = true ∧ ∃ e : Nat, p'.ctime = .ticks e ∧ CursorSound e p') := by
  have hq := h.enterWrite
  generalize hqe : p.enterWrite = q at hq
  have hpos : 1 ≤ q.period := by obtain ⟨⟨h1, -, -, h4⟩, -⟩ := hq; omega
  have hadd : q.ctime.add q.period = .ticks (c + q.period) := by rw [hq.2.1]; simp [Time.add]; omega
  have hhalf : q.ctime.add (q.period / 2 : Nat) = .ticks (c + q.period / 2) := by rw [hq.2.1]; simp [Time.add]; omega
  have hcell : CursorSound (c + q.period) { q with ctime := q.ctime.add q.period } :=
    hq.later hq.1 hadd (by omega) rfl rfl
  have hcases := writeNextBit_cases hw
  rw [hqe] at hcases
  rcases hcases with ⟨rfl, rfl, -⟩ | ⟨rfl, -, rfl⟩ | ⟨rfl, -, -, rfl⟩
  · exact .inl ⟨rfl, hq⟩
  · exact .inr ⟨rfl, _, hadd, hcell⟩
  · refine .inr ⟨rfl, _, hadd, hcell.1, hadd, fun b hst => ?_⟩
    obtain ⟨hbc, hall⟩ := hcell.2.2 b hst
    refine ⟨hbc, fun x hx => ?_⟩
    rcases List.mem_append.1 hx with hx | hx
    · exact hall x hx
    · have hb : b ≤ c := (hq.2.2 b hst).1
      rw [List.mem_singleton.1 hx, hhalf]
      exact ⟨_, rfl, by omega, by omega⟩

/-! A sound engine: idle as a whole, or running. -/

/-- The engine is sound and a drive is live. -/
structure Running (s : State) : Prop where
  clock : ClockSound s.par
  saved : ContextSound s.snap.live s.snap.pll
  drive : s.live.drive ≠ none
  state : s.live.state ≠ .idle
  cursor : ∃ c : Nat, s.live.tm = .ticks c ∧ CursorSound c s.pll

/-- With no drive live a context is sound when it is idle as a whole. -/
theorem contextSound_none {l : Live} {p : Pll} (hd : l.drive = none) :
    ContextSound l p ↔ l.state = .idle ∧ l.tm = .never ∧ p.writeStart = .never := by
  rw [ContextSound, hd]

/-- With a drive live a context is sound when it runs at a sound cursor. -/
theorem contextSound_live {l : Live} {p : Pll} (hd : l.drive ≠ none) :
    ContextSound l p ↔ l.state ≠ .idle ∧ ∃ c : Nat, l.tm = .ticks c ∧ CursorSound c p := by
  obtain ⟨d, hd⟩ := Option.ne_none_iff_exists'.1 hd
  rw [ContextSound, hd]
  constructor
  · rintro ⟨hs, hp, c, ht, hc, hb⟩
    exact ⟨hs, c, ht, hp, hc, hb⟩
  · rintro ⟨hs, c, ht, hp, hc, hb⟩
    exact ⟨hs, hp, c, ht, hc, hb⟩

theorem Running.sound {s : State} (h : Running s) : EngineSound s :=
  ⟨h.clock, (contextSound_live h.drive).2 ⟨h.state, h.cursor⟩, h.saved⟩

/-- A sound engine runs, or is idle as a whole. -/
theorem running_or_idle {s : State} (h : EngineSound s) :
    Running s ∨ (s.live.drive = none ∧ s.live.state = .idle ∧ s.live.tm = .never ∧ s.pll.writeStart = .never) := by
  obtain ⟨hclock, hlive, hsaved⟩ := h
  by_cases hd : s.live.drive = none
  · exact .inr ⟨hd, (contextSound_none hd).1 hlive⟩
  · obtain ⟨hs, hc⟩ := (contextSound_live hd).1 hlive
    exact .inl ⟨hclock, hsaved, hd, hs, hc⟩

/-! What an operation leads to. -/

/-- What no operation of the engine touches: the parameters, the configuration, the controller, real time and how many drives
there are. -/
structure SurroundingsKept (s t : State) : Prop where
  par : t.par = s.par
  cfg : t.cfg = s.cfg
  ctrl : t.ctrl = s.ctrl
  now : t.now = s.now
  slots : t.drives.length = s.drives.length

/-- From `s` an operation leads to `t`: the surroundings are kept, and where `P` held `Q` holds. -/
structure Leads (P Q : State → Prop) (s t : State) : Prop where
  kept : SurroundingsKept s t
  leads : P s → Q t

theorem Leads.refl {P : State → Prop} (s : State) : Leads P P s s := ⟨⟨rfl, rfl, rfl, rfl, rfl⟩, id⟩

theorem Leads.trans {P Q R : State → Prop} {a b c : State} (h : Leads P Q a b) (k : Leads Q R b c) : Leads P R a c :=
  ⟨⟨k.kept.par.trans h.kept.par, k.kept.cfg.trans h.kept.cfg, k.kept.ctrl.trans h.kept.ctrl,
    k.kept.now.trans h.kept.now, k.kept.slots.trans h.kept.slots⟩, k.leads ∘ h.leads⟩

/-- An engine that still runs is sound. -/
theorem Leads.ends {P : State → Prop} {a b : State} (h : Leads P Running a b) : Leads P EngineSound a b :=
  ⟨h.kept, Running.sound ∘ h.leads⟩

/-- What is done to a running engine does no harm to one that is idle when it leaves the idle engine as it is. -/
theorem Leads.of_running {s t : State} (h : Leads Running EngineSound s t) (hi : s.live.state = .idle → t = s) :
    Leads EngineSound EngineSound s t := by
  refine ⟨h.kept, fun hs => ?_⟩
  rcases running_or_idle hs with hr | ⟨-, hidle, -⟩
  · exact h.leads hr
  · rw [hi hidle]
    exact hs

/-! The operations every state rule is made of. -/

/-- The live context changes, but for its drive, its time and whether it runs. -/
theorem live_leads {s : State} {l : Live} (hd : l.drive = s.live.drive) (ht : l.tm = s.live.tm)
    (hs : l.state = s.live.state ∨ l.state ≠ .idle) : Leads Running Running s { s with live := l } := by
  refine ⟨⟨rfl, rfl, rfl, rfl, rfl⟩, fun h => ⟨h.clock, h.saved, hd ▸ h.drive, ?_, ht ▸ h.cursor⟩⟩
  rcases hs with hs | hs
  · exact hs ▸ h.state
  · exact hs

/-- The sequencer goes on to a state that is not IDLE. -/
theorem goTo_leads {st : LiveState} (hst : st ≠ .idle) (s : State) : Leads Running Running s (goTo st s) :=
  live_leads rfl rfl (.inr hst)

theorem alignOn_leads {st : LiveState} (hst : st ≠ .idle) (s : State) : Leads Running Running s (alignOn st s) :=
  live_leads rfl rfl (.inr hst)

theorem raise_leads (f : BitVec 3) (s : State) : Leads Running Running s (raise f s) := live_leads rfl rfl (.inl rfl)

theorem setFifo_leads (q : List Byte) (s : State) : Leads Running Running s (s.setFifo q) :=
  ⟨⟨rfl, rfl, rfl, rfl, rfl⟩, fun h => ⟨h.clock, h.saved, h.drive, h.state, h.cursor⟩⟩

theorem requestWake_leads (t : Time) (s : State) : Leads Running Running s (requestWake t s) := by
  cases t <;> exact ⟨⟨rfl, rfl, rfl, rfl, rfl⟩, fun h => ⟨h.clock, h.saved, h.drive, h.state, h.cursor⟩⟩

/-- The engine's PLL moves from one sound cursor to another, and `live.tm` with it. -/
theorem cursor_leads {s : State} {l : Live} {p : Pll} (hd : l.drive = s.live.drive) (hs : l.state = s.live.state)
    (h : ∀ c : Nat, s.live.tm = .ticks c → CursorSound c s.pll → ∃ e : Nat, l.tm = .ticks e ∧ CursorSound e p) :
    Leads Running Running s { s with pll := p, live := l } := by
  refine ⟨⟨rfl, rfl, rfl, rfl, rfl⟩, fun hr => ?_⟩
  obtain ⟨c, ht, hc⟩ := hr.cursor
  exact ⟨hr.clock, hr.saved, hd ▸ hr.drive, hs ▸ hr.state, h c ht hc⟩

/-- READ_ONE_BIT, from the medium or with a given cell. -/
theorem readCell_leads {src : Option Bool} {limit : Time} {s t : State} (h : readCell src limit s = some t) :
    Leads Running Running s t := by
  obtain ⟨b, p, hb, rfl⟩ := readCell_cases h
  exact cursor_leads rfl rfl fun c _ hc => hc.getNextBit hb

/-- WRITE_ONE_BIT. -/
theorem writeCell_leads {limit : Time} {s : State} {r : Bool × State} (h : writeCell limit s = .ok r) :
    Leads Running Running s r.2 := by
  obtain ⟨⟨ok, p⟩, hw, rfl⟩ := res_map_ok h
  cases ok with
  | true =>
    refine cursor_leads rfl rfl fun c _ hc => ?_
    rcases hc.writeNextBit hw with ⟨hf, -⟩ | ⟨-, he⟩
    · cases hf
    · exact he
  | false =>
    refine cursor_leads rfl rfl fun c ht hc => ?_
    rcases hc.writeNextBit hw with ⟨-, he⟩ | ⟨hf, -⟩
    · exact ⟨c, ht, he⟩
    · cases hf

/-- COMMIT leaves the live context and the checkpoint alone. -/
theorem commitTo_frame {tm : Time} {s t : State} (h : commitTo tm s = .ok t) :
    SurroundingsKept s t ∧ t.live = s.live ∧ t.snap = s.snap := by
  rcases commitTo_cases h with ⟨-, rfl⟩ | ⟨b, -, -, rfl⟩ | ⟨b, -, -, -, -, rfl⟩
  · exact ⟨(Leads.refl (P := Running) _).kept, rfl, rfl⟩
  · exact ⟨(Leads.refl (P := Running) _).kept, rfl, rfl⟩
  · exact ⟨⟨rfl, rfl, rfl, rfl, by simp [mediumWrite]⟩, rfl, rfl⟩

/-- COMMIT at the cursor leaves the cursor sound. -/
theorem CursorSound.commitTo {c : Nat} {s t : State} (hc : CursorSound c s.pll) (h : commitTo (.ticks c) s = .ok t) :
    CursorSound c t.pll := by
  rcases commitTo_cases h with ⟨-, rfl⟩ | ⟨b, -, -, rfl⟩ | ⟨b, -, -, -, -, rfl⟩
  · exact hc
  · exact hc
  · exact hc.startWriting rfl

/-- COMMIT at `live.tm` (41_write_encoder R175). -/
theorem commitTo_leads {s t : State} (h : commitTo s.live.tm s = .ok t) : Leads Running Running s t := by
  obtain ⟨hkept, hlive, hsnap⟩ := commitTo_frame h
  refine ⟨hkept, fun hr => ?_⟩
  obtain ⟨c, ht, hc⟩ := hr.cursor
  rw [ht] at h
  exact ⟨hkept.par ▸ hr.clock, hsnap ▸ hr.saved, hlive ▸ hr.drive, hlive ▸ hr.state, c, hlive ▸ ht, hc.commitTo h⟩

/-- STOP_WRITING leaves the live context and the checkpoint alone, and write mode (41_write_encoder R176). -/
theorem stopWritingAt_frame {tm : Time} {s t : State} (h : stopWritingAt tm s = .ok t) :
    SurroundingsKept s t ∧ t.live = s.live ∧ t.snap = s.snap ∧ t.pll.writeStart = .never := by
  obtain ⟨c, hc, rfl⟩ := stopWritingAt_cases h
  obtain ⟨⟨hpar, hcfg, hctrl, hnow, hslots⟩, hlive, hsnap⟩ := commitTo_frame hc
  exact ⟨⟨hpar, hcfg, hctrl, hnow, hslots⟩, hlive, hsnap, rfl⟩

/-- STOP_WRITING at `live.tm`. -/
theorem stopWritingAt_leads {s t : State} (h : stopWritingAt s.live.tm s = .ok t) : Leads Running Running s t := by
  obtain ⟨c, hc, rfl⟩ := stopWritingAt_cases h
  refine (commitTo_leads hc).trans (cursor_leads (l := c.live) rfl rfl ?_)
  exact fun e ht he => ⟨e, ht, he.stop⟩

/-- The checkpoint of a sound engine is sound (10_state R33). -/
theorem snapshot_sound {s : State} (h : EngineSound s) : EngineSound { s with snap := ⟨s.live, s.pll⟩ } :=
  ⟨h.1, h.2.1, h.2.1⟩

/-- CHECKPOINT (45_live_control R264). -/
theorem takeCheckpoint_leads {s t : State} (h : takeCheckpoint s = .ok t) : Leads EngineSound EngineSound s t := by
  obtain ⟨-, c, hc, rfl⟩ := takeCheckpoint_cases h
  rcases hc with ⟨-, rfl⟩ | ⟨hd, hc⟩
  · exact ⟨⟨rfl, rfl, rfl, rfl, rfl⟩, snapshot_sound⟩
  · have hl := commitTo_leads hc
    refine ⟨⟨hl.kept.par, hl.kept.cfg, hl.kept.ctrl, hl.kept.now, hl.kept.slots⟩, fun hs => snapshot_sound ?_⟩
    rcases running_or_idle hs with hr | ⟨hn, -⟩
    · exact (hl.leads hr).sound
    · exact absurd hn hd

/-- START_WRITING before a first item (44_write_states R234, R237). -/
theorem startIfFirst_leads (s : State) : Leads Running Running s (startIfFirst s) := by
  unfold startIfFirst
  split
  · exact cursor_leads (l := s.live) rfl rfl fun c ht hc => ⟨c, ht, hc.startWriting ht⟩
  · exact .refl s

/-- LoadItem moves neither the sequencer nor the time (44_write_states R231). -/
theorem loadItem_leads (i : Item) (s : State) : Leads Running Running s (loadItem i s) := by
  unfold loadItem
  split
  · exact live_leads rfl rfl (.inl rfl)
  · exact live_leads rfl rfl (.inl rfl)
  · exact live_leads rfl rfl (.inl rfl)
  · split
    · exact live_leads rfl rfl (.inl rfl)
    · split
      · exact live_leads rfl rfl (.inl rfl)
      · next b x hx =>
        obtain ⟨q, -, rfl⟩ := fifoPop_cases hx
        exact (setFifo_leads q s).trans (live_leads rfl rfl (.inl rfl))
  · exact live_leads rfl rfl (.inl rfl)
  · exact .refl s

/-! The deferred transition. -/

/-- What LIVE_SYNC at a confirmed time has done: COMMIT, the transition, to IDLE through the trap entry, and a checkpoint
(45_live_control R267). -/
theorem syncConfirmed_cases {s t : State} (h : syncConfirmed s = .ok t) :
    ∃ c u : State, commitTo s.live.tm s = .ok c ∧
      takeCheckpoint { u with live := { u.live with nextState := none } } = .ok t ∧
      ((c.live.nextState.getD c.live.state ≠ .idle ∧
          u = { c with live := { c.live with state := c.live.nextState.getD c.live.state } }) ∨
        enterIdle { c with live := { c.live with state := .idle } } = .ok u) := by
  obtain ⟨c, hc, h⟩ := res_bind_ok h
  dsimp only at h
  split at h
  · next hi =>
    rw [hi] at h
    obtain ⟨u, hu, h⟩ := res_bind_ok h
    exact ⟨c, u, hc, h, .inr hu⟩
  · next hi => exact ⟨c, _, hc, h, .inl ⟨hi, rfl⟩⟩

/-- The transition to IDLE of an engine that ran leaves it idle as a whole (60_exceptions R363). -/
theorem enterIdle_leads {s t : State} (h : enterIdle { s with live := { s.live with state := .idle } } = .ok t) :
    Leads Running EngineSound s t := by
  obtain ⟨c, hc, rfl⟩ := enterIdle_cases h
  obtain ⟨⟨hpar, hcfg, hctrl, hnow, hslots⟩, -, hsnap, hstart⟩ := stopWritingAt_frame hc
  have hsnap : c.snap = s.snap := hsnap
  refine ⟨⟨hpar, hcfg, hctrl, hnow, hslots⟩, fun hr => ⟨?_, (contextSound_none rfl).2 ⟨rfl, rfl, hstart⟩, ?_⟩⟩
  · exact hpar ▸ hr.clock
  · exact hsnap ▸ hr.saved

/-- A sound engine stays so with another pending transition. -/
theorem setNextState_leads (n : Option LiveState) (s : State) :
    Leads EngineSound EngineSound s { s with live := { s.live with nextState := n } } :=
  ⟨⟨rfl, rfl, rfl, rfl, rfl⟩, id⟩

/-- LIVE_SYNC at a confirmed time (45_live_control R267). -/
theorem syncConfirmed_leads {s t : State} (h : syncConfirmed s = .ok t) : Leads Running EngineSound s t := by
  obtain ⟨c, u, hc, ht, hu⟩ := syncConfirmed_cases h
  refine Leads.trans (Leads.trans ?_ (setNextState_leads none u)) (takeCheckpoint_leads ht)
  refine (commitTo_leads hc).trans ?_
  rcases hu with ⟨hst, rfl⟩ | hu
  · refine Leads.ends ?_
    exact live_leads rfl rfl (.inr hst)
  · exact enterIdle_leads hu

/-- LIVE_DELAY (45_live_control R266). -/
theorem delayTo_leads {st : LiveState} {s t : State} (h : delayTo st s = .ok t) : Leads Running EngineSound s t := by
  have hpend : Leads Running Running s { s with live := { s.live with nextState := some st } } :=
    live_leads rfl rfl (.inl rfl)
  rcases delayTo_cases h with ⟨-, rfl⟩ | ⟨n, -, -, rfl⟩ | ⟨-, h⟩
  · exact hpend.ends
  · exact (hpend.trans (requestWake_leads _ _)).ends
  · exact hpend.trans (syncConfirmed_leads h)

/-- LIVE_DELAY as the last step of a rule. -/
theorem thenDelay_leads {st : LiveState} {s : State} {r : State × OpOutcome} (h : thenDelay st s = .ok r) :
    Leads Running EngineSound s r.1 := by
  obtain ⟨t, ht, rfl⟩ := res_map_ok h
  exact delayTo_leads ht

/-- A condition that ends the run (60_exceptions R363). -/
theorem endWith_leads {f : BitVec 3} {s : State} {r : State × OpOutcome} (h : endWith f s = .ok r) :
    Leads Running EngineSound s r.1 :=
  (raise_leads f s).trans (thenDelay_leads h)

/-! The state rules. -/

theorem ruleSearchHeader_leads {src : Option Bool} {limit : Time} {s : State} {r : State × OpOutcome}
    (h : ruleSearchHeader src limit s = .ok r) : Leads Running EngineSound s r.1 := by
  unfold ruleSearchHeader at h
  split at h
  · cases h
    exact (Leads.refl s).ends
  · next t ht =>
    have hcell := readCell_leads ht
    split_ifs at h <;> cases h
    · exact (hcell.trans (alignOn_leads (by decide) t)).ends
    · exact (hcell.trans (alignOn_leads (by decide) t)).ends
    · exact hcell.ends

theorem ruleHeaderHeader_leads {src : Option Bool} {limit : Time} {s : State} {r : State × OpOutcome}
    (h : ruleHeaderHeader src limit s = .ok r) : Leads Running EngineSound s r.1 := by
  unfold ruleHeaderHeader at h
  split at h
  · cases h
  split at h
  · cases h
    exact (Leads.refl s).ends
  · next t ht =>
    have hcell := readCell_leads ht
    have hid : Leads Running Running t { t with live := { t.live with bitCounter := 0, state := .readIdBlock } } :=
      live_leads rfl rfl (.inr (by simp))
    split_ifs at h <;> cases h
    · exact hcell.ends
    · exact (hcell.trans (goTo_leads (by decide) t)).ends
    · exact hcell.ends
    · exact (hcell.trans (goTo_leads (by decide) t)).ends
    · exact (hcell.trans hid).ends

theorem ruleReadId_leads {src : Option Bool} {limit : Time} {s : State} {r : State × OpOutcome}
    (h : ruleReadId src limit s = .ok r) : Leads Running EngineSound s r.1 := by
  unfold ruleReadId at h
  split at h
  · cases h
    exact (Leads.refl s).ends
  · next t ht =>
    have hcell := readCell_leads ht
    have hput (l : IdBuf) : Leads Running Running s { t with live := { t.live with idbuf := l } } :=
      hcell.trans (live_leads rfl rfl (.inl rfl))
    dsimp only at h
    split_ifs at h
    · cases h
      exact hcell.ends
    · exact Leads.trans (hput _) (thenDelay_leads h)
    · cases h
      exact (hput _).ends

theorem ruleSearchData_leads {src : Option Bool} {limit : Time} {s : State} {r : State × OpOutcome}
    (h : ruleSearchData src limit s = .ok r) : Leads Running EngineSound s r.1 := by
  unfold ruleSearchData at h
  split at h
  · cases h
    exact (Leads.refl s).ends
  · next t ht =>
    have hcell := readCell_leads ht
    dsimp only at h
    split_ifs at h
    · exact hcell.trans (endWith_leads h)
    · cases h
      exact hcell.ends
    · cases h
      exact (hcell.trans (alignOn_leads (by decide) t)).ends
    · cases h
      exact (hcell.trans (alignOn_leads (by decide) t)).ends
    · cases h
      exact ((hcell.trans (raise_leads _ t)).trans (alignOn_leads (by decide) _)).ends
    · cases h
      exact hcell.ends

theorem ruleDataHeader_leads {src : Option Bool} {limit : Time} {s : State} {r : State × OpOutcome}
    (h : ruleDataHeader src limit s = .ok r) : Leads Running EngineSound s r.1 := by
  unfold ruleDataHeader at h
  split at h
  · cases h
  split at h
  · cases h
    exact (Leads.refl s).ends
  · next t ht =>
    have hcell := readCell_leads ht
    have hdata (x : State) : Leads Running Running x
        { x with live := { x.live with bitCounter := 0, state := .readSectorData } } :=
      live_leads rfl rfl (.inr (by simp))
    split_ifs at h
    · cases h
      exact hcell.ends
    · exact hcell.trans (endWith_leads h)
    · cases h
      exact hcell.ends
    · cases h
      exact (hcell.trans (hdata t)).ends
    · cases h
      exact ((hcell.trans (raise_leads _ t)).trans (hdata _)).ends
    · exact hcell.trans (endWith_leads h)

theorem ruleSectorData_leads {src : Option Bool} {limit : Time} {s : State} {r : State × OpOutcome}
    (h : ruleSectorData src limit s = .ok r) : Leads Running EngineSound s r.1 := by
  unfold ruleSectorData at h
  split at h
  · cases h
    exact (Leads.refl s).ends
  · next t ht =>
    have hcell := readCell_leads ht
    dsimp only at h
    split_ifs at h
    · cases h
      exact hcell.ends
    · exact hcell.trans (thenDelay_leads h)
    · exact hcell.trans (thenDelay_leads h)
    · cases h
      exact hcell.ends

theorem ruleSkipGap2_leads {src : Option Bool} {limit : Time} {s : State} {r : State × OpOutcome}
    (h : ruleSkipGap2 src limit s = .ok r) : Leads Running EngineSound s r.1 := by
  unfold ruleSkipGap2 at h
  split at h
  · cases h
    exact (Leads.refl s).ends
  · next t ht =>
    have hcell := readCell_leads ht
    split_ifs at h
    · cases h
      exact hcell.ends
    · refine Leads.trans (hcell.trans ?_) (thenDelay_leads h)
      exact live_leads rfl rfl (.inl rfl)

theorem ruleSectorDataByte_leads {s : State} {r : State × OpOutcome} (h : ruleSectorDataByte s = .ok r) :
    Leads Running EngineSound s r.1 := by
  have h := confirmed_ok h
  split at h
  · exact endWith_leads h
  · next x hx =>
    have hpush : Leads Running Running s x := by
      split_ifs at hx
      · cases hx
        exact .refl s
      · obtain ⟨-, rfl⟩ := fifoPush_cases hx
        exact setFifo_leads _ s
    obtain ⟨t, ht, rfl⟩ := res_map_ok h
    exact (hpush.trans (goTo_leads (by decide) x)).ends.trans (takeCheckpoint_leads ht)

/-- The common end of a load state. -/
theorem loadThen_leads {i : Item} {emit : LiveState} (hemit : emit ≠ .idle) {s : State} {r : State × OpOutcome}
    (h : loadThen i emit s = .ok r) : Leads Running EngineSound s r.1 := by
  obtain ⟨t, ht, rfl⟩ := res_map_ok h
  refine Leads.trans (Leads.ends ((loadItem_leads i s).trans ?_)) (takeCheckpoint_leads ht)
  exact live_leads rfl rfl (.inr hemit)

theorem ruleWriteSector_leads {s : State} {r : State × OpOutcome} (h : ruleWriteSector s = .ok r) :
    Leads Running EngineSound s r.1 := by
  have h := confirmed_ok h
  split at h
  · obtain ⟨c, hc, h⟩ := res_bind_ok h
    exact (stopWritingAt_leads hc).trans (thenDelay_leads h)
  · exact (startIfFirst_leads s).trans (loadThen_leads (by decide) h)

theorem rulePreSectors_leads {s : State} {r : State × OpOutcome} (h : rulePreSectors s = .ok r) :
    Leads Running EngineSound s r.1 :=
  (startIfFirst_leads s).trans (loadThen_leads (by decide) (confirmed_ok h))

/-- The common body of the emit states. -/
theorem emitCell_leads {limit : Time} {next : State → Bool × LiveState} {s : State} {r : State × OpOutcome}
    (h : emitCell limit next s = .ok r) : Leads Running EngineSound s r.1 := by
  obtain ⟨⟨go, t⟩, hw, h⟩ := res_bind_ok h
  have hcell : Leads Running Running s t := writeCell_leads hw
  dsimp only at h
  split at h
  · cases h
    exact hcell.ends
  split at h
  · cases h
    exact hcell.ends
  · refine Leads.trans (hcell.trans ?_) (thenDelay_leads h)
    split <;> exact live_leads rfl rfl (.inl rfl)

/-- The rule of any state keeps a running engine sound (43_read_states, 44_write_states). -/
theorem stateRule_leads {st : LiveState} {src : Option Bool} {limit : Time} {s : State} {r : State × OpOutcome}
    (h : stateRule st src limit s = .ok r) : Leads Running EngineSound s r.1 := by
  cases st with
  | idle =>
    cases h
    exact (Leads.refl s).ends
  | searchAddressMarkHeader => exact ruleSearchHeader_leads h
  | readHeaderBlockHeader => exact ruleHeaderHeader_leads h
  | readIdBlock => exact ruleReadId_leads h
  | searchAddressMarkData => exact ruleSearchData_leads h
  | readDataBlockHeader => exact ruleDataHeader_leads h
  | readSectorData => exact ruleSectorData_leads h
  | readSectorDataByte => exact ruleSectorDataByte_leads h
  | writeSectorSkipGap2 => exact ruleSkipGap2_leads h
  | writeSectorData => exact ruleWriteSector_leads h
  | writeSectorDataByte =>
    unfold stateRule ruleWriteSectorByte at h
    exact emitCell_leads h
  | writeTrackPreSectors => exact rulePreSectors_leads h
  | writeTrackPreSectorsByte =>
    unfold stateRule rulePreSectorsByte at h
    exact emitCell_leads h
  | writeTrackSector =>
    unfold stateRule ruleTrackSector at h
    exact loadThen_leads (by decide) (confirmed_ok h)
  | writeTrackSectorByte =>
    unfold stateRule ruleTrackSectorByte at h
    exact emitCell_leads h
  | writeTrackPostSectors =>
    unfold stateRule rulePostSectors at h
    exact loadThen_leads (by decide) (confirmed_ok h)
  | writeTrackPostSectorsByte =>
    unfold stateRule rulePostSectorsByte at h
    exact emitCell_leads h

/-- The rule of the present state keeps a sound engine sound; in IDLE it does nothing. -/
theorem presentRule_leads {src : Option Bool} {limit : Time} {s : State} {r : State × OpOutcome}
    (h : stateRule s.live.state src limit s = .ok r) : Leads EngineSound EngineSound s r.1 := by
  refine (stateRule_leads h).of_running fun hidle => ?_
  rw [hidle] at h
  cases h
  rfl

/-! Live control. -/

/-- LIVE_RUN's loop, turn by turn. -/
theorem runLoop_leads {fuel : Nat} {limit : Time} {s : State} {r : State × OpOutcome}
    (h : runLoop fuel limit s = .ok r) : Leads EngineSound EngineSound s r.1 := by
  induction fuel generalizing s with
  | zero =>
    cases h
    exact .refl s
  | succ fuel ih =>
    unfold runLoop at h
    split at h
    · cases h
    · next t o ht =>
      have hturn := presentRule_leads ht
      split_ifs at h
      · exact hturn.trans (ih h)
      · cases h
        exact hturn

/-- LIVE_RUN (45_live_control R263). -/
theorem runTo_leads {limit : Time} {s : State} {r : State × OpOutcome} (h : runTo limit s = .ok r) :
    Leads EngineSound EngineSound s r.1 := by
  unfold runTo at h
  split at h
  · cases h
    exact .refl s
  split at h
  · exact runLoop_leads h
  split at h
  · exact runLoop_leads h
  · exact Leads.trans (b := requestWake _ s) ⟨⟨rfl, rfl, rfl, rfl, rfl⟩, id⟩ (runLoop_leads h)

/-- ROLLBACK goes back to a sound engine (45_live_control R265). -/
theorem rollBack_leads (s : State) : Leads EngineSound EngineSound s (rollBack s) :=
  ⟨⟨rfl, rfl, rfl, rfl, rfl⟩, fun ⟨hclock, _, hsaved⟩ => ⟨hclock, hsaved, hsaved⟩⟩

/-- PLL_SET_CLOCK and PLL_RESET at a time make a sound cursor there (40_pll R150, R151, 00_scope R8). -/
theorem cursorSound_restart {par : Params} (hpar : ClockSound par) {period : Nat} (hperiod : 2 ≤ period) (t : Nat) (p : Pll) :
    CursorSound t ((p.setClock par period).restart (.ticks t)) := by
  obtain ⟨hmin, hmax, hadj⟩ := hpar p period hperiod
  exact ⟨⟨hmin, hmax, Nat.zero_le _, hadj⟩, rfl, by rintro b ⟨⟩⟩

/-- No entry state is IDLE. -/
theorem ne_idle_of_isEntryState {st : LiveState} (h : isEntryState st = true) : st ≠ .idle := by
  rintro rfl
  cases h

/-- What LIVE_START that completes has done (45_live_control R261). -/
theorem start_cases {d : Nat} {st : LiveState} {s t : State} (h : start d st s = .ok t) :
    takeCheckpoint { s with
      live := freshLive s.now d st
      pll := (s.pll.setClock s.par s.cfg.cellNominal).restart (.ticks s.now) } = .ok t := by
  unfold start at h
  split_ifs at h
  · cases h
  · cases h
  · cases h
  · cases h
  · obtain ⟨c, hc, h⟩ := res_bind_ok h
    obtain ⟨-, rfl⟩ := setClock_cases hc
    exact h

/-- LIVE_START: the engine runs from `now` (45_live_control R261). -/
theorem start_leads {d : Nat} {st : LiveState} {s t : State} (h : start d st s = .ok t) :
    Leads EngineSound EngineSound s t := by
  obtain ⟨-, -, hentry, hperiod⟩ := start_allowed h
  refine Leads.trans ?_ (takeCheckpoint_leads (start_cases h))
  refine ⟨⟨rfl, rfl, rfl, rfl, rfl⟩, fun ⟨hclock, _, hsaved⟩ => Running.sound ?_⟩
  exact ⟨hclock, hsaved, nofun, ne_idle_of_isEntryState hentry, s.now, rfl, cursorSound_restart hclock hperiod _ _⟩

/-- COMMIT at `live.tm` of an engine that runs or is idle. -/
theorem commitTo_tm_leads {s t : State} (h : commitTo s.live.tm s = .ok t) : Leads EngineSound EngineSound s t := by
  have hl := commitTo_leads h
  refine ⟨hl.kept, fun hs => ?_⟩
  rcases running_or_idle hs with hr | ⟨-, -, -, hstart⟩
  · exact (hl.leads hr).sound
  · rw [commitTo_never _ hstart] at h
    cases h
    exact hs

/-- LIVE_SYNC (45_live_control R267). -/
theorem sync_leads {s t : State} (h : sync s = .ok t) : Leads EngineSound EngineSound s t := by
  unfold sync at h
  split at h
  · cases h
    exact .refl s
  · next n hn =>
    split at h
    · obtain ⟨⟨x, o⟩, hx, h⟩ := res_bind_ok h
      obtain ⟨c, hc, h⟩ := res_bind_ok h
      have hrun : Leads EngineSound EngineSound s x := (rollBack_leads s).trans (runTo_leads hx)
      exact (hrun.trans (commitTo_tm_leads hc)).trans ((setNextState_leads none c).trans (takeCheckpoint_leads h))
    · have hl := syncConfirmed_leads h
      refine ⟨hl.kept, fun hs => ?_⟩
      rcases running_or_idle hs with hr | ⟨-, -, hnever, -⟩
      · exact hl.leads hr
      · rw [hnever] at hn
        cases hn

/-- The second half of LIVE_ABORT: STOP_WRITING of a live engine, IDLE, and a checkpoint (45_live_control R268). -/
def abortFrom (x : State) : Res State := do
  let c ← if x.live.drive.isSome then stopWritingAt x.live.tm x else .ok x
  takeCheckpoint { c with live := { c.live with drive := none, tm := .never, state := .idle, nextState := none } }

/-- LIVE_ABORT is its second half from the state as it is, or from where a run from the checkpoint up to `now` ends. -/
theorem abort_cases {s t : State} (h : abort s = .ok t) :
    abortFrom s = .ok t ∨ ∃ r : State × OpOutcome, runTo (.ticks s.now) (rollBack s) = .ok r ∧ abortFrom r.1 = .ok t := by
  unfold abort at h
  dsimp only at h
  split at h
  · obtain ⟨x, hx, h⟩ := res_bind_ok h
    obtain ⟨r, hr, rfl⟩ := res_map_ok hx
    exact .inr ⟨r, hr, h⟩
  · exact .inl h

/-- What the second half of LIVE_ABORT has done. -/
theorem abortFrom_cases {s t : State} (h : abortFrom s = .ok t) :
    ∃ c : State, (s.live.drive = none ∧ c = s ∨ stopWritingAt s.live.tm s = .ok c) ∧
      takeCheckpoint { c with
        live := { c.live with drive := none, tm := .never, state := .idle, nextState := none } } = .ok t := by
  unfold abortFrom at h
  split at h
  · obtain ⟨c, hc, h⟩ := res_bind_ok h
    exact ⟨c, .inr hc, h⟩
  · next hd => exact ⟨s, .inl ⟨by simpa using hd, rfl⟩, h⟩

/-- The engine is idle as a whole after the second half of LIVE_ABORT. -/
theorem abortFrom_leads {s t : State} (h : abortFrom s = .ok t) : Leads EngineSound EngineSound s t := by
  obtain ⟨c, hc, ht⟩ := abortFrom_cases h
  have hstop : SurroundingsKept s c ∧ c.snap = s.snap ∧ (EngineSound s → c.pll.writeStart = .never) := by
    rcases hc with ⟨hd, rfl⟩ | hc
    · exact ⟨(Leads.refl (P := Running) c).kept, rfl, fun hs => ((contextSound_none hd).1 hs.2.1).2.2⟩
    · obtain ⟨hkept, -, hsnap, hstart⟩ := stopWritingAt_frame hc
      exact ⟨hkept, hsnap, fun _ => hstart⟩
  obtain ⟨⟨hpar, hcfg, hctrl, hnow, hslots⟩, hsnap, hstart⟩ := hstop
  refine Leads.trans ?_ (takeCheckpoint_leads ht)
  refine ⟨⟨hpar, hcfg, hctrl, hnow, hslots⟩, fun hs => ⟨?_, (contextSound_none rfl).2 ⟨rfl, rfl, hstart hs⟩, ?_⟩⟩
  · exact hpar ▸ hs.1
  · exact hsnap ▸ hs.2.2

/-- LIVE_ABORT (45_live_control R268). -/
theorem abort_leads {s t : State} (h : abort s = .ok t) : Leads EngineSound EngineSound s t := by
  rcases abort_cases h with h | ⟨r, hr, h⟩
  · exact abortFrom_leads h
  · exact ((rollBack_leads s).trans (runTo_leads hr)).trans (abortFrom_leads h)

end Sys2Proof.Proofs
end

section
/-! The engine's invariant, kept by every instruction, every step of the Command Engine, every alarm and every event. -/

namespace Sys2Proof.Proofs

open Sys2Proof.Machine Sys2Proof.Safety Sys2Proof.Laws

/-! What does not move the engine. -/

/-- What leaves the engine alone leaves it sound. -/
theorem sound_of_kept {s t : State} (h : EngineKept s t) (hs : EngineSound s) : EngineSound t := by
  obtain ⟨hpar, hlive, hpll, hsnap⟩ := h
  rw [EngineSound, hpar, hlive, hpll, hsnap]
  exact hs

/-- Data of the live context change, where the sequencer stands does not. -/
theorem sound_of_data {s : State} {l : Live} (hs : EngineSound s) (hd : l.drive = s.live.drive) (ht : l.tm = s.live.tm)
    (hst : l.state = s.live.state) : EngineSound { s with live := l } := by
  obtain ⟨hclock, hlive, hsaved⟩ := hs
  refine ⟨hclock, ?_, hsaved⟩
  unfold ContextSound at hlive ⊢
  rw [hd, ht, hst]
  exact hlive

/-- A write of `cfg`, also one that R402 forbids, leaves the engine sound (70_reset_and_hazards R402). -/
theorem writeCfg_sound {c : Cfg} {s : State} (hs : EngineSound s) : EngineSound (writeCfg c s) := by
  rcases writeCfg_cases c s with ⟨-, h⟩ | ⟨-, h⟩
  · rw [h]
    exact hs
  · rw [h]
    exact hs

/-! The instructions. -/

/-- A state row runs the rule of its state, or nothing. -/
theorem stateRow_sound {st : LiveState} {limit : Time} {s t : State} (hs : EngineSound s)
    (h : finish (withOutcome (inState st (stateRule st none limit) s)) = .next t) : EngineSound t := by
  obtain ⟨r, hr, rfl⟩ := finish_map_next h
  show EngineSound r.1
  unfold inState at hr
  split at hr
  · next hst =>
    rw [← hst.1] at hr
    exact (presentRule_leads hr).leads hs
  · cases hr
    exact hs

/-- One cell passes under the head. -/
theorem passCell_sound {b : Bool} {s t : State} (hs : EngineSound s) (h : passCell b s = .ok t) : EngineSound t := by
  unfold passCell at h
  split at h
  · obtain ⟨r, hr, rfl⟩ := res_map_ok h
    exact (presentRule_leads hr).leads hs
  · cases h
    exact hs

theorem passCells_sound {bs : List Bool} {s t : State} (hs : EngineSound s) (h : passCells bs s = .ok t) :
    EngineSound t := by
  induction bs generalizing s with
  | nil =>
    cases h
    exact hs
  | cons b bs ih =>
    obtain ⟨c, hc, h⟩ := res_bind_ok h
    exact ih (passCell_sound hs hc) h

/-- A word passes under the head (30_encoding R111). -/
theorem wordStep_sound {w : Word} {s t : State} (hs : EngineSound s) (h : wordStep w s = .next t) : EngineSound t := by
  obtain ⟨c, hc, rfl⟩ := finish_map_next h
  have hpassed : EngineSound c := passCells_sound hs hc
  exact hpassed

/-- A flag row raises its flag or does nothing. -/
theorem raiseRow_sound {f : BitVec 3} {s : State} (hs : EngineSound s) : EngineSound (raiseRow f s) := by
  show EngineSound (if s.live.state ≠ .idle ∧ s.live.nextState = none then raise f s else s)
  split
  · exact sound_of_data hs rfl rfl rfl
  · exact hs

/-- LIVE_DELAY, requested alone: with no drive live it only notes the transition (45_live_control R266). -/
theorem delayTo_sound {st : LiveState} {s t : State} (hs : EngineSound s) (h : delayTo st s = .ok t) : EngineSound t := by
  rcases running_or_idle hs with hr | ⟨-, -, hnever, -⟩
  · exact (delayTo_leads h).leads hr
  · have ht : t = { s with live := { s.live with nextState := some st } } := by
      unfold delayTo at h
      rw [hnever] at h
      cases h
      rfl
    rw [ht]
    exact sound_of_data hs rfl rfl rfl

/-! The host commands. -/

/-- A host command, accepted or ignored. -/
theorem accepted_sound {f : State → State} {s t : State} (hs : EngineSound s)
    (hf : ∀ x : State, EngineSound x → EngineSound (f x)) (h : accepted s f = .next t) : EngineSound t := by
  unfold accepted at h
  split at h
  · cases h
    exact hf _ (writeCfg_sound hs)
  · cases h
    exact hs

/-- A command that leaves the engine alone. -/
theorem accepted_kept {f : State → State} {s t : State} (hs : EngineSound s) (hf : ∀ x : State, EngineKept x (f x))
    (h : accepted s f = .next t) : EngineSound t :=
  accepted_sound hs (fun x => sound_of_kept (hf x)) h

/-- The checks of a command lead to its beginning or to its end. -/
theorem checkDrive_sound {j : Job} {go : State → State} {s : State} (hs : EngineSound s)
    (hgo : ∀ x : State, EngineSound x → EngineSound (go x)) : EngineSound (checkDrive j go s) := by
  have hbegin : EngineSound (beginJob j (interruptSeek j.unit.toNat s)) :=
    sound_of_kept ((interruptSeek_kept _ s).trans (setCtrl_kept _ _)) hs
  unfold checkDrive
  dsimp only
  split
  · exact sound_of_kept (endEarly_kept _ _ _ _) hbegin
  split
  · exact sound_of_kept (endEarly_kept _ _ _ _) hbegin
  · exact hgo _ hbegin

/-- A command that writes `cfg` and has its head loaded. -/
theorem beginHeadLoad_sound {m : MainState} {c : Cfg} {s : State} (hs : EngineSound s) :
    EngineSound (beginHeadLoad m (writeCfg c s)) :=
  sound_of_kept (beginHeadLoad_kept m _) (writeCfg_sound hs)

theorem beginData_sound {kind : JobKind} {m : MainState} {deleted : Bool} {a : DataArgs} {s : State}
    (hs : EngineSound s) : EngineSound (beginData kind m deleted a s) :=
  checkDrive_sound hs fun _ hx => beginHeadLoad_sound hx

theorem beginReadId_sound {flags : BitVec 3} {hu : Byte} {s : State} (hs : EngineSound s) :
    EngineSound (beginReadId flags hu s) :=
  checkDrive_sound hs fun _ hx => beginHeadLoad_sound hx

theorem beginFormat_sound {flags : BitVec 3} {hu n sc gpl d : Byte} {s : State} (hs : EngineSound s) :
    EngineSound (beginFormat flags hu n sc gpl d s) :=
  checkDrive_sound hs fun _ hx => beginHeadLoad_sound hx

theorem senseInterrupt_kept (s : State) : EngineKept s (senseInterrupt s) := by
  unfold senseInterrupt
  split <;> exact ⟨rfl, rfl, rfl, rfl⟩

theorem freeResult_kept (n : Nat) (s : State) : EngineKept s (freeResult n s) :=
  (takeFrees_kept n s).trans (toResult_kept _ _ _)

/-- Every instruction but one that moves the PLL, the write buffer or one cell by itself keeps the engine sound. -/
theorem exec_sound {i : Instr} {s t : State} (hs : EngineSound s) (hi : movesAlone i = false)
    (h : exec i s = .next t) : EngineSound t := by
  cases i with
  | pllSetClock _ | pllReset _ | getNextBit _ | writeNextBit _ _ | startWriting _ | commit _ | stopWriting _
  | readOneBit _ | writeOneBit _ => cases hi
  | reservedOp _ | reservedState _ => cases h
  | encodeMfm _ | encodeFm _ | loadRaw _ | crcSeed | crcBit _ | crcByte _ =>
    cases h
    exact sound_of_data hs rfl rfl rfl
  | liveStart d st =>
    obtain ⟨c, hc, rfl⟩ := finish_map_next h
    exact (start_leads hc).leads hs
  | liveRun limit =>
    obtain ⟨r, hr, rfl⟩ := finish_map_next h
    exact (runTo_leads hr).leads hs
  | checkpoint =>
    obtain ⟨c, hc, rfl⟩ := finish_map_next h
    exact (takeCheckpoint_leads hc).leads hs
  | rollback =>
    cases h
    exact (rollBack_leads s).leads hs
  | liveSync =>
    obtain ⟨c, hc, rfl⟩ := finish_map_next h
    exact (sync_leads hc).leads hs
  | liveDelay st =>
    obtain ⟨c, hc, rfl⟩ := finish_map_next h
    have hdelayed : EngineSound c := delayTo_sound hs hc
    exact hdelayed
  | liveAbort =>
    obtain ⟨c, hc, rfl⟩ := finish_map_next h
    exact (abort_leads hc).leads hs
  | idle _ =>
    cases h
    exact hs
  | searchAddressMarkHeader limit => exact stateRow_sound (st := .searchAddressMarkHeader) (limit := limit) hs h
  | readHeaderBlockHeader limit => exact stateRow_sound (st := .readHeaderBlockHeader) (limit := limit) hs h
  | readIdBlock limit => exact stateRow_sound (st := .readIdBlock) (limit := limit) hs h
  | searchAddressMarkData limit => exact stateRow_sound (st := .searchAddressMarkData) (limit := limit) hs h
  | readDataBlockHeader limit => exact stateRow_sound (st := .readDataBlockHeader) (limit := limit) hs h
  | readSectorData limit => exact stateRow_sound (st := .readSectorData) (limit := limit) hs h
  | readSectorDataByte limit => exact stateRow_sound (st := .readSectorDataByte) (limit := limit) hs h
  | writeSectorSkipGap2 limit => exact stateRow_sound (st := .writeSectorSkipGap2) (limit := limit) hs h
  | writeSectorData limit => exact stateRow_sound (st := .writeSectorData) (limit := limit) hs h
  | writeSectorDataByte limit => exact stateRow_sound (st := .writeSectorDataByte) (limit := limit) hs h
  | writeTrackPreSectors limit => exact stateRow_sound (st := .writeTrackPreSectors) (limit := limit) hs h
  | writeTrackPreSectorsByte limit => exact stateRow_sound (st := .writeTrackPreSectorsByte) (limit := limit) hs h
  | writeTrackSector limit => exact stateRow_sound (st := .writeTrackSector) (limit := limit) hs h
  | writeTrackSectorByte limit => exact stateRow_sound (st := .writeTrackSectorByte) (limit := limit) hs h
  | writeTrackPostSectors limit => exact stateRow_sound (st := .writeTrackPostSectors) (limit := limit) hs h
  | writeTrackPostSectorsByte limit => exact stateRow_sound (st := .writeTrackPostSectorsByte) (limit := limit) hs h
  | rawWord _ | mfmByte _ _ | fmByte _ | syncMfm | syncFmId | fmDam | fmDdam | mfmIam | fmIam | amId | amData | amDdata
  | amIndex => exact wordStep_sound hs h
  | fDamDeleted | fDataMarkMissing | fOverrun =>
    cases h
    exact raiseRow_sound hs
  | readTrack _ | writeData _ | readData _ | writeDeletedData _ | readDeletedData _ | scanEqual _ | scanLowOrEqual _
  | scanHighOrEqual _ => exact accepted_sound hs (fun _ hx => beginData_sound hx) h
  | readId _ _ => exact accepted_sound hs (fun _ hx => beginReadId_sound hx) h
  | formatTrack _ _ _ _ _ _ => exact accepted_sound hs (fun _ hx => beginFormat_sound hx) h
  | recalibrate _ _ | seek _ _ _ => exact accepted_kept hs (fun x => beginSeek_kept _ _ _ x) h
  | senseInterruptStatus _ => exact accepted_kept hs senseInterrupt_kept h
  | dumpReg _ | version _ => exact accepted_kept hs (freeResult_kept _) h
  | specify _ _ _ | senseDriveStatus _ _ | configure _ _ _ _ | lock _ =>
    dsimp only [exec] at h
    refine accepted_kept hs (fun _ => ?_) h
    exact ⟨rfl, rfl, rfl, rfl⟩

/-! Resets, events and the step. -/

/-- A reset leaves the engine idle as a whole, whatever it was (70_reset_and_hazards R390). -/
theorem blockReset_sound {cfg : Cfg} {s : State} (h : ClockSound s.par) : EngineSound (blockReset cfg s) :=
  ⟨h, (contextSound_none rfl).2 ⟨rfl, rfl, rfl⟩, (contextSound_none rfl).2 ⟨rfl, rfl, rfl⟩⟩

/-- A reset's LIVE_ABORT keeps the surroundings, and a sound engine sound, also where it would be refused. -/
theorem abortForReset_leads (s : State) : Leads EngineSound EngineSound s (abortForReset s) := by
  rcases abortForReset_cases s with ⟨a, ha, hr⟩ | ⟨-, -, hr⟩
  · rw [hr]
    exact abort_leads ha
  · rw [hr]
    exact .refl s

theorem softReset_sound {s : State} (hs : EngineSound s) : EngineSound (softReset s) :=
  blockReset_sound ((abortForReset_leads s).leads hs).1

theorem hardReset_sound {s : State} (hs : EngineSound s) : EngineSound (hardReset s) :=
  blockReset_sound ((abortForReset_leads s).leads hs).1

theorem leaveReset_kept (s : State) : EngineKept s (leaveReset s) := ⟨rfl, rfl, rfl, rfl⟩

theorem writeDor_sound {v : Byte} {s : State} (hs : EngineSound s) : EngineSound (writeDor v s) := by
  have hstored : EngineSound (s.setCtrl { s.ctrl with dor := v }) := hs
  unfold writeDor
  dsimp only
  split
  · exact softReset_sound hstored
  split
  · exact sound_of_kept (leaveReset_kept _) hstored
  · exact hstored

theorem writeDsr_sound {v : Byte} {s : State} (hs : EngineSound s) : EngineSound (writeDsr v s) := by
  unfold writeDsr
  dsimp only
  split
  · exact sound_of_kept ((setCtrl_kept _ _).trans (leaveReset_kept _)) (softReset_sound hs)
  · exact hs

theorem hostWrite_sound {off : Nat} {v : Byte} {s t : State} (hs : EngineSound s) (h : hostWrite off v s = .ok t) :
    EngineSound t := by
  unfold hostWrite at h
  split at h <;> cases h
  · exact hs
  · exact hs
  · exact writeDor_sound hs
  · exact hs
  · exact writeDsr_sound hs
  · exact sound_of_kept (writeData_kept v s) hs
  · exact hs

/-- A change of a ready line leaves the engine alone; what it ends comes as a request. -/
theorem readyChanged_kept (d : Nat) (b : Byte) (s : State) : EngineKept s (readyChanged d b s) := by
  unfold readyChanged
  split
  · exact .refl s
  · exact pendStatus_kept d b s

theorem handle_sound {e : Event} {s t : State} (hs : EngineSound s) (h : handle e s = .ok t) : EngineSound t := by
  cases e with
  | tc =>
    cases h
    exact hs
  | notReady d =>
    have hready : EngineSound (setReady d false s) := hs
    unfold handle at h
    cases h
    split
    · exact hs
    split
    · exact hs
    · exact sound_of_kept (readyChanged_kept d _ _) hready
  | nowReady d =>
    cases h
    have hready : EngineSound (setReady d true s) := hs
    exact sound_of_kept (readyChanged_kept d _ _) hready
  | hardReset =>
    cases h
    exact hardReset_sound hs
  | softReset =>
    cases h
    exact sound_of_kept (leaveReset_kept _) (softReset_sound hs)
  | hostWrite off v => exact hostWrite_sound hs h
  | hostRead off => exact sound_of_kept (hostRead_kept h) hs
  | fifoPut v =>
    cases h
    exact sound_of_kept (hostPush_kept v s) hs
  | fifoGet =>
    cases h
    exact sound_of_kept (hostPop_kept s) hs
  | setCfg c =>
    cases h
    exact writeCfg_sound hs
  | attach d m =>
    cases h
    exact hs
  | operate r =>
    cases h
    exact hs

theorem deliver_sound {e : Event} {s t : State} (hs : EngineSound s) (h : deliver e s = .ok t) : EngineSound t := by
  unfold deliver at h
  split at h
  · cases h
    exact hs
  · exact handle_sound hs h

/-- A request: its instruction, or the answer to an unknown host command. -/
theorem runRequest_sound {r : Request} {s t : State} (hs : EngineSound s)
    (hr : ∀ i : Instr, decode r = .ok i → movesAlone i = false) (h : runRequest r s = .next t) : EngineSound t := by
  unfold runRequest at h
  split at h
  · next i hi => exact exec_sound hs (hr i hi) h
  · refine accepted_kept hs (fun _ => ?_) h
    exact ⟨rfl, rfl, rfl, rfl⟩
  · cases h

/-- An alarm that is due first, or the event at its time. -/
theorem runEvent_sound {n : Nat} {e : Event} {rest : List Input} {s t : State} (hs : EngineSound s)
    (h : runEvent n e rest s = .next t) : EngineSound t := by
  unfold runEvent at h
  split at h
  · next m a _ =>
    cases h
    exact sound_of_kept (sound_kept m a s) hs
  · have hreach : EngineSound (reach n { s with inbox := rest }) := hs
    exact deliver_sound hreach (finish_next h)

theorem runIdle_sound {s : State} (hs : EngineSound s) : EngineSound (runIdle s) := by
  unfold runIdle
  split
  · next m a _ => exact sound_of_kept (sound_kept m a s) hs
  · exact hs

/-- Settles O59: the invariant is kept by what each kind of input does. -/
theorem engineStaysSound : Obligations.EngineStaysSound := by
  unfold Obligations.EngineStaysSound
  intro s t hs hr h
  unfold step advanceOne at h
  split at h
  · cases h
    exact runIdle_sound hs
  · next r rest hin =>
    have htaken : EngineSound { s with inbox := rest } := hs
    exact runRequest_sound htaken (hr r rest · hin) h
  · next c rest hin =>
    cases h
    have htaken : EngineSound { s with inbox := rest } := hs
    exact sound_of_kept (clientStep_kept c _) htaken
  · exact runEvent_sound hs h

end Sys2Proof.Proofs
end

section
/-! The resets: what each leaves of the block, of the controller and of the drives (10_state R51, 47_host_interface R338,
70_reset_and_hazards R390 to R392). -/

namespace Sys2Proof.Proofs

open Sys2Proof.Machine Sys2Proof.Safety Sys2Proof.Laws

/-! The drive slots. -/

/-- Every slot at its reset values, with its medium; a drive that does not exist reads as one without a medium. -/
theorem slotsReset_drive (s : State) (d : Nat) : (slotsReset s).drive d = Drive.reset (s.drive d).med := by
  have hnone : Drive.reset Medium.none = Drive.reset (Drive.reset Medium.none).med := rfl
  simp only [State.drive, slotsReset, List.getD_eq_getElem?_getD, List.getElem?_map]
  cases s.drives[d]? with
  | none => exact hnone
  | some x => rfl

/-- The slots' statuses reset again leave what one reset leaves. -/
theorem pendAll_reset (u : Nat) (ds : List Drive) :
    (pendAll u ds).map (fun d => Drive.reset d.med) = ds.map fun d => Drive.reset d.med := by
  induction ds generalizing u with
  | nil => rfl
  | cons d ds ih => simp [pendAll, ih]

/-- Slot `d` of the slots numbered from `u` on, when all statuses are pending. -/
theorem pendAll_getElem? (u : Nat) (ds : List Drive) (d : Nat) :
    (pendAll u ds)[d]? = ds[d]?.map fun x =>
      { x with pending := some (st0TopTwo ||| headUnit false (BitVec.ofNat 2 (u + d))) } := by
  induction ds generalizing u d with
  | nil => rfl
  | cons x ds ih =>
    cases d with
    | zero => rfl
    | succ d =>
      have hu : u + 1 + d = u + (d + 1) := by omega
      simp only [pendAll, List.getElem?_cons_succ, ih, hu]

/-- Leaving reset keeps every medium. -/
theorem leaveReset_med (s : State) (d : Nat) : ((leaveReset s).drive d).med = (s.drive d).med := by
  show ((pendAll 0 s.drives).getD d (Drive.reset Medium.none)).med = (s.drives.getD d (Drive.reset Medium.none)).med
  rw [List.getD_eq_getElem?_getD, List.getD_eq_getElem?_getD, pendAll_getElem?]
  cases s.drives[d]? <;> rfl

/-- The status that is pending for unit `d`: its top two bits and its number (47_host_interface R338). -/
theorem leaveReset_pending {s : State} {d : Nat} (h4 : d < 4) (hd : d < s.drives.length) :
    ((leaveReset s).drive d).pending = some (0xC0 ||| BitVec.ofNat 8 d) := by
  show ((pendAll 0 s.drives).getD d (Drive.reset Medium.none)).pending = _
  have hstatus : st0TopTwo ||| headUnit false (BitVec.ofNat 2 d) = 0xC0 ||| BitVec.ofNat 8 d := by
    interval_cases d <;> rfl
  rw [List.getD_eq_getElem?_getD, pendAll_getElem?, List.getElem?_eq_getElem hd, Nat.zero_add, hstatus]
  rfl

/-! The soft reset. -/

/-- What a reset's LIVE_ABORT leaves, as the statements name it (log 52). -/
theorem abortForReset_eq {s a : State} (h : abort s = .ok a ∨ (∃ e : Stop, abort s = .error e) ∧ a = s) :
    abortForReset s = a := by
  unfold abortForReset
  rcases h with h | ⟨⟨e, h⟩, rfl⟩ <;> rw [h]

section AfterSoftReset

variable (s : State)

@[simp] theorem softReset_cfg : (softReset s).cfg = s.cfg := (abortForReset_leads s).kept.cfg
@[simp] theorem softReset_par : (softReset s).par = s.par := (abortForReset_leads s).kept.par

@[simp] theorem softReset_resetAt : (softReset s).resetAt = some s.now :=
  congrArg some (abortForReset_leads s).kept.now

@[simp] theorem softReset_pll : (softReset s).pll = Pll.reset.setClock s.par s.cfg.cellNominal := by
  rw [← softReset_par s, ← softReset_cfg s]
  rfl

@[simp] theorem softReset_ctrl : (softReset s).ctrl = s.ctrl.softReset s.par := by
  obtain ⟨hpar, -, hctrl, -, -⟩ := (abortForReset_leads s).kept
  rw [← hpar, ← hctrl]
  rfl

@[simp] theorem softReset_slots : (softReset s).drives.length = s.drives.length :=
  (List.length_map _).trans (abortForReset_leads s).kept.slots

theorem softReset_drive (d : Nat) : (softReset s).drive d = Drive.reset ((abortForReset s).drive d).med :=
  slotsReset_drive ((blockReset (abortForReset s).cfg (abortForReset s)).setCtrl _) d

end AfterSoftReset

/-- The controller's reset values are those of one reset, INTRQ raised in between or not. -/
theorem controller_softReset_twice (par : Params) (c : Controller) (b : Bool) :
    Controller.softReset par { c.softReset par with intrq := b } = c.softReset par := by
  cases h : c.lock <;> simp [Controller.softReset, h]

/-- LIVE_ABORT finds nothing to do in a block that has just been reset. -/
theorem abort_after_reset {s : State} (hlive : s.live = Live.reset) (hsnap : s.snap = ⟨s.live, s.pll⟩) :
    abort s = .ok s := by
  cases s
  dsimp only at hlive hsnap
  subst hlive hsnap
  rfl

/-- What SOFT RESET does after its LIVE_ABORT. -/
theorem softReset_of_abort {s a : State} (h : abortForReset s = a) :
    softReset s = markReset (slotsReset ((blockReset a.cfg a).setCtrl (a.ctrl.softReset a.par))) := by
  rw [← h]
  rfl

/-- Reset and left twice, the state is as after once. -/
theorem softReset_twice (s : State) : leaveReset (softReset (leaveReset (softReset s))) = leaveReset (softReset s) := by
  have habort : abortForReset (leaveReset (softReset s)) = leaveReset (softReset s) :=
    abortForReset_eq (.inl (abort_after_reset rfl rfl))
  have hslots : ∀ ds : List Drive,
      (ds.map fun d => Drive.reset d.med).map (fun d => Drive.reset d.med) = ds.map fun d => Drive.reset d.med :=
    fun ds => List.map_map
  rw [softReset_of_abort habort, softReset_of_abort (s := s) rfl]
  simp only [leaveReset, raiseIntrq, State.setCtrl, markReset, slotsReset, blockReset, pendAll_reset, hslots,
    controller_softReset_twice]

/-- A reset overrides everything: SOFT RESET is always delivered. -/
theorem deliver_softReset (s : State) : deliver .softReset s = .ok (leaveReset (softReset s)) := by
  simp [deliver, overridden, handle]

/-- Settles O56: the reset's values field by field, and `softReset_twice`. -/
theorem softResetTwiceIsOnce : Obligations.SoftResetTwiceIsOnce := by
  unfold Obligations.SoftResetTwiceIsOnce
  intro s
  have hctrl : (leaveReset (softReset s)).ctrl = { s.ctrl.softReset s.par with intrq := true } :=
    congrArg (fun c : Controller => { c with intrq := true }) (softReset_ctrl s)
  have hmed : ∀ d : Nat, ((leaveReset (softReset s)).drive d).med = ((abortForReset s).drive d).med := by
    intro d
    rw [leaveReset_med, softReset_drive]
    rfl
  have hconf : ∀ v : Byte, (s.ctrl.lock = true → (if s.ctrl.lock then v else 0) = v) ∧
      (s.ctrl.lock = false → (if s.ctrl.lock then v else 0) = 0) := by
    intro v
    cases s.ctrl.lock <;> simp
  refine ⟨leaveReset (softReset s), deliver_softReset s, ?_, rfl, rfl, rfl, softReset_cfg s, ?_⟩
  · rw [deliver_softReset, softReset_twice]
  rw [hctrl]
  refine ⟨rfl, rfl, rfl, rfl, ?_, ?_, ?_, ?_, softReset_pll s⟩
  · exact fun hl => ⟨(hconf _).1 hl, (hconf _).1 hl, (hconf _).1 hl⟩
  · exact fun hl => ⟨(hconf _).2 hl, (hconf _).2 hl, (hconf _).2 hl⟩
  · intro a d ha
    rw [hmed, abortForReset_eq (.inl ha)]
  · intro e d he
    rw [hmed, abortForReset_eq (.inr ⟨⟨e, he⟩, rfl⟩)]

/-! The other resets. -/

/-- The data rate, by the two bits that select it (47_host_interface R334). -/
theorem rateOfCode_bits (v : Byte) :
    rateOfCode v = (if v.getLsbD 1 then (if v.getLsbD 0 then 1000000 else 250000)
      else if v.getLsbD 0 then 300000 else 500000) := by
  have h0 : v.getLsbD 0 = (v.extractLsb' 0 2).getLsbD 0 := by simp
  have h1 : v.getLsbD 1 = (v.extractLsb' 0 2).getLsbD 1 := by simp
  rw [rateOfCode, h0, h1]
  generalize v.extractLsb' 0 2 = c
  revert c
  decide

/-- HARD RESET: the values of 10_state R51 and R40 and the controller's, the media stay (70_reset_and_hazards R390). -/
theorem hardReset_result {s a : State} (ha : abortForReset s = a) :
    ∃ t : State, deliver .hardReset s = .ok t ∧ t.live = Live.reset ∧ t.snap = ⟨t.live, t.pll⟩ ∧ t.fifo = [] ∧
      t.cfg = Cfg.reset ∧ t.ctrl = Controller.reset s.par.rate ∧
      (s.par = Params.reference → t.pll = Pll.reset) ∧ t.resetAt = some s.now ∧ t.now = s.now ∧
      ∀ d : Nat, t.drive d = Drive.reset (a.drive d).med := by
  subst ha
  obtain ⟨hpar, -, -, hnow, -⟩ := (abortForReset_leads s).kept
  refine ⟨hardReset s, by simp [deliver, overridden, handle], rfl, rfl, rfl, rfl, ?_, ?_, ?_, hnow, ?_⟩
  · rw [← hpar]
    rfl
  · intro href
    show Pll.reset.setClock (abortForReset s).par 2000 = Pll.reset
    rw [hpar, href]
    rfl
  · exact congrArg some hnow
  · exact slotsReset_drive ((blockReset Cfg.reset (abortForReset s)).setCtrl _)

/-- Data Rate Select with bit 7 performs the reset actions and leaves reset by itself, the rate selected
(47_host_interface R334, R338). -/
theorem rateSelectReset_result {s a : State} {v : Byte} (ha : abortForReset s = a) (hat : s.resetAt ≠ some s.now)
    (hv : v.getLsbD 7 = true) :
    ∃ t : State, deliver (.hostWrite 4 v) s = .ok t ∧ t.ctrl.rate = rateOfCode v ∧ t.ctrl.dsr = v &&& 0x7F ∧
      t.ctrl.intrq = true ∧ t.ctrl.phase = .command ∧ t.live = Live.reset ∧ t.fifo = [] ∧ t.cfg = s.cfg ∧
      (∀ d : Nat, (t.drive d).med = (a.drive d).med) ∧
      ∀ d : Nat, d < 4 → d < s.drives.length → (t.drive d).pending = some (0xC0 ||| BitVec.ofNat 8 d) := by
  subst ha
  refine ⟨writeDsr v s, by simp [deliver, atReset, hat, handle, hostWrite], ?_⟩
  rw [writeDsr, if_pos hv]
  refine ⟨rfl, rfl, rfl, rfl, rfl, rfl, softReset_cfg s, ?_, ?_⟩
  · intro d
    rw [leaveReset_med, setCtrl_drive, softReset_drive]
    rfl
  · intro d h4 hd
    exact leaveReset_pending h4 (by simpa using hd)

/-- A write of the Digital Output Register that clears the reset bit performs the reset actions; the bit holds the controller
in reset (47_host_interface R333, R338). -/
theorem resetBit_result {s x a : State} {v : Byte} (hdor : s.ctrl.dor.getLsbD 2 = true) (hv : v.getLsbD 2 = false)
    (hx : x = { s with ctrl := { s.ctrl with dor := v } }) (ha : abortForReset x = a) :
    ∃ t : State, deliver (.hostWrite 2 v) s = .ok t ∧ t.ctrl.dor = v ∧ heldInReset t = true ∧
      t.ctrl.intrq = false ∧ t.ctrl.phase = .command ∧ t.live = Live.reset ∧ t.fifo = [] ∧ t.cfg = s.cfg ∧
      t.resetAt = some s.now ∧
      (∀ d : Nat, t.drive d = Drive.reset (a.drive d).med) ∧ ∀ d ∈ t.drives, d.pending = none := by
  subst ha
  have hreset : writeDor v s = softReset x := by
    rw [writeDor, hdor, hv, hx]
    rfl
  have hxdor : (softReset x).ctrl.dor = v := by rw [softReset_ctrl, hx]; rfl
  refine ⟨softReset x, ?_, hxdor, ?_, rfl, rfl, rfl, rfl, ?_, ?_, softReset_drive x, ?_⟩
  · simp [deliver, overridden, handle, hostWrite, hreset]
  · rw [heldInReset, hxdor, hv]
    rfl
  · rw [softReset_cfg, hx]
  · rw [softReset_resetAt, hx]
  · intro d hd
    obtain ⟨e, -, rfl⟩ := List.mem_map.1 hd
    rfl

/-- What a reset at the same tick overrides leaves the reset state (60_exceptions R360). -/
theorem deliver_overridden {s : State} {e : Event} (hat : s.resetAt = some s.now) (he : overridden e = true) :
    deliver e s = .ok s := by
  simp [deliver, atReset, hat, he]

/-- Settles O57: one lemma for each reset, and `deliver_overridden`. -/
theorem resetsResult : Obligations.ResetsResult := by
  unfold Obligations.ResetsResult
  refine ⟨fun s a ha => ⟨hardReset_result (abortForReset_eq ha), ?_⟩, ?_, ?_⟩
  · rintro v rate hat hv rfl
    rw [← rateOfCode_bits]
    exact rateSelectReset_result (abortForReset_eq ha) hat hv
  · intro s x a v hdor hv hx ha
    exact resetBit_result hdor hv hx (abortForReset_eq ha)
  · rintro s e v off c r hat he
    refine deliver_overridden hat ?_
    rcases he with rfl | rfl | rfl | rfl | rfl | ⟨rfl, hoff⟩
    · rfl
    · rfl
    · rfl
    · rfl
    · rfl
    · simpa [overridden] using hoff

/-! The machine right after reset. -/

/-- 00_scope R8's constraints on the PLL's fractions, with its own largest adjustment: the shortest period is at most the
period and at least half of it, the longest at least the period. -/
theorem clockSound_of_fractions {par : Params} (hadj : par.pllMaxPhaseAdj = none) (hminDen : 0 < par.pllMinDen)
    (hmin : par.pllMinNum ≤ par.pllMinDen) (hhalf : par.pllMinDen ≤ 2 * par.pllMinNum) (hmaxDen : 0 < par.pllMaxDen)
    (hmax : par.pllMaxDen ≤ par.pllMaxNum) : ClockSound par := by
  intro p period hperiod
  have hpos : 0 < period * par.pllMinNum / par.pllMinDen :=
    Nat.div_pos (hhalf.trans (Nat.mul_le_mul_right _ hperiod)) hminDen
  refine ⟨?_, ?_, ?_⟩
  · exact Nat.div_le_of_le_mul (by rw [Nat.mul_comm]; exact Nat.mul_le_mul_right _ hmin)
  · exact (Nat.le_div_iff_mul_le hmaxDen).2 (Nat.mul_le_mul_left _ hmax)
  · simp only [Pll.setClock, hadj, Option.getD_none]
    omega

/-- Settles O60: the reset state's values, and the three invariants of it. -/
theorem resetStateIsInForm : Obligations.ResetStateIsInForm := by
  unfold Obligations.ResetStateIsInForm
  have hclock : ClockSound State.reset.par :=
    clockSound_of_fractions rfl (by decide) (by decide) (by decide) (by decide) (by decide)
  have hidle : ContextSound Live.reset Pll.reset := (contextSound_none rfl).2 ⟨rfl, rfl, rfl⟩
  refine ⟨⟨reset_media_wf, rfl⟩, Nat.zero_le _, ⟨hclock, hidle, hidle⟩, rfl, rfl, rfl, rfl, rfl, rfl, rfl, ?_⟩
  decide

end Sys2Proof.Proofs
end

section
/-! The canonical form of the media and the wake-ups, and the FIFO's bound (20_memory R70, R80), kept by every operation of the
engine. -/

namespace Sys2Proof.Proofs

open Sys2Proof.Machine Sys2Proof.Safety Sys2Proof.Laws

/-- Real time stands, the parameters are as before, the media and the wake-ups stay in canonical form and the FIFO within its
size. -/
def FormKept (s t : State) : Prop :=
  t.now = s.now ∧ t.par = s.par ∧ (MediaCanonical s → MediaCanonical t) ∧ (FifoFits s → FifoFits t)

theorem FormKept.refl (s : State) : FormKept s s := ⟨rfl, rfl, id, id⟩

theorem FormKept.trans {a b c : State} (h : FormKept a b) (k : FormKept b c) : FormKept a c := by
  obtain ⟨hnow, hpar, hmedia, hfifo⟩ := h
  obtain ⟨know, kpar, kmedia, kfifo⟩ := k
  exact ⟨know.trans hnow, kpar.trans hpar, kmedia ∘ hmedia, kfifo ∘ hfifo⟩

/-! The updates that everything below is made of. What an operation does to any other register keeps the form by definition:
`(h :)` in the proofs below takes a fact `h` about the rest of the operation for the operation itself. -/

/-- The medium under the head of any drive is in canonical form, of a drive that does not exist too. -/
theorem drive_canonical {s : State} (h : MediaCanonical s) (d : Nat) : Canonical (s.drive d).med := by
  unfold State.drive
  rw [List.getD_eq_getElem?_getD]
  cases hd : s.drives[d]? with
  | none => exact ⟨rfl, rfl⟩
  | some x => exact h.1 x (List.mem_of_getElem? hd)

/-- A slot changes, its medium in canonical form if it was. -/
theorem setDrive_form (u : Nat) {x : Drive} {s : State} (hx : Canonical (s.drive u).med → Canonical x.med) :
    FormKept s (s.setDrive u x) := by
  refine ⟨rfl, rfl, fun h => ⟨fun d hd => ?_, h.2⟩, id⟩
  rcases List.mem_or_eq_of_mem_set hd with hd | rfl
  · exact h.1 d hd
  · exact hx (drive_canonical h u)

/-- A slot changes, its medium does not. -/
theorem setDrive_sameMed (u : Nat) {x : Drive} {s : State} (hx : x.med = (s.drive u).med := by rfl) :
    FormKept s (s.setDrive u x) :=
  setDrive_form u fun h => hx ▸ h

theorem setSlot_form (u : Nat) (m : MainState) (b : SubState) (s : State) : FormKept s (s.setSlot u m b) :=
  setDrive_sameMed u

/-- Every slot changes, its medium does not. -/
theorem drives_form {s : State} {ds : List Drive} (h : ds.map Drive.med = s.drives.map Drive.med) :
    FormKept s { s with drives := ds } := by
  refine ⟨rfl, rfl, fun hs => ⟨fun d hd => ?_, hs.2⟩, id⟩
  have hmem : d.med ∈ s.drives.map Drive.med := h ▸ List.mem_map_of_mem hd
  obtain ⟨e, he, hmed⟩ := List.mem_map.1 hmem
  rw [← hmed]
  exact hs.1 e he

/-- The FIFO gets no longer, or stays within its size. -/
theorem setFifo_form {q : List Byte} {s : State} (hq : FifoFits s → q.length ≤ s.par.fifoSize) :
    FormKept s (s.setFifo q) :=
  ⟨rfl, rfl, id, hq⟩

theorem emptyFifo_form (s : State) : FormKept s (s.setFifo []) := setFifo_form fun _ => Nat.zero_le _

theorem fifoPush_form {b : Byte} {s t : State} (h : fifoPush b s = some t) : FormKept s t := by
  obtain ⟨hroom, rfl⟩ := fifoPush_cases h
  exact setFifo_form fun _ => by simpa using hroom

theorem fifoPop_form {b : Byte} {s t : State} (h : fifoPop s = some (b, t)) : FormKept s t := by
  obtain ⟨q, hq, rfl⟩ := fifoPop_cases h
  refine setFifo_form fun hfits => ?_
  rw [FifoFits, hq, List.length_cons] at hfits
  omega

theorem requestWake_form (t : Time) (s : State) : FormKept s (requestWake t s) := by
  cases t with
  | never => exact .refl s
  | ticks n => exact ⟨rfl, rfl, fun h => ⟨h.1, insert_wf _ n h.2⟩, id⟩

/-! The operations every state rule is made of. -/

theorem readCell_form {src : Option Bool} {limit : Time} {s t : State} (h : readCell src limit s = some t) :
    FormKept s t := by
  obtain ⟨b, p, -, rfl⟩ := readCell_cases h
  exact .refl s

theorem writeCell_form {limit : Time} {s : State} {r : Bool × State} (h : writeCell limit s = .ok r) :
    FormKept s r.2 := by
  obtain ⟨⟨ok, p⟩, -, rfl⟩ := res_map_ok h
  cases ok <;> exact .refl s

/-- MediumWrite keeps the canonical form (20_memory R72). -/
theorem mediumWrite_form (b : Nat) (e : Time) (l : List Nat) (s : State) : FormKept s (mediumWrite b e l s) := by
  refine setDrive_form s.currentDrive fun h => ?_
  obtain ⟨hflux, hindex⟩ := medium_write_wf s.medium b e l h.1
  exact ⟨hflux, hindex ▸ h.2⟩

theorem commitTo_form {tm : Time} {s t : State} (h : commitTo tm s = .ok t) : FormKept s t := by
  rcases commitTo_cases h with ⟨-, rfl⟩ | ⟨b, -, -, rfl⟩ | ⟨b, -, -, -, -, rfl⟩
  · exact .refl _
  · exact .refl _
  · exact mediumWrite_form b tm _ s

theorem stopWritingAt_form {tm : Time} {s t : State} (h : stopWritingAt tm s = .ok t) : FormKept s t := by
  obtain ⟨c, hc, rfl⟩ := stopWritingAt_cases h
  exact (commitTo_form hc :)

theorem takeCheckpoint_form {s t : State} (h : takeCheckpoint s = .ok t) : FormKept s t := by
  obtain ⟨-, c, hc, rfl⟩ := takeCheckpoint_cases h
  rcases hc with ⟨-, rfl⟩ | ⟨-, hc⟩
  · exact .refl _
  · exact (commitTo_form hc :)

theorem syncConfirmed_form {s t : State} (h : syncConfirmed s = .ok t) : FormKept s t := by
  obtain ⟨c, u, hc, ht, hu⟩ := syncConfirmed_cases h
  have hmoved : FormKept c u := by
    rcases hu with ⟨-, rfl⟩ | hu
    · exact .refl c
    · obtain ⟨x, hx, rfl⟩ := enterIdle_cases hu
      exact (stopWritingAt_form hx :)
  exact ((commitTo_form hc).trans hmoved).trans (takeCheckpoint_form ht :)

theorem delayTo_form {st : LiveState} {s t : State} (h : delayTo st s = .ok t) : FormKept s t := by
  rcases delayTo_cases h with ⟨-, rfl⟩ | ⟨n, -, -, rfl⟩ | ⟨-, h⟩
  · exact .refl s
  · exact (requestWake_form (.ticks n) s :)
  · exact (syncConfirmed_form h :)

theorem thenDelay_form {st : LiveState} {s : State} {r : State × OpOutcome} (h : thenDelay st s = .ok r) :
    FormKept s r.1 := by
  obtain ⟨t, ht, rfl⟩ := res_map_ok h
  exact delayTo_form ht

theorem endWith_form {f : BitVec 3} {s : State} {r : State × OpOutcome} (h : endWith f s = .ok r) : FormKept s r.1 :=
  (thenDelay_form (s := raise f s) h :)

/-- LoadItem takes at most one byte of the FIFO (44_write_states R231). -/
theorem loadItem_form (i : Item) (s : State) : FormKept s (loadItem i s) := by
  cases i with
  | data =>
    unfold loadItem
    dsimp only
    split
    · exact .refl s
    split
    · exact .refl s
    · next b t ht => exact (fifoPop_form ht :)
  | _ => exact .refl s

/-! The state rules: a cell, and then either the live context alone changes or the last step is a LIVE_DELAY. -/

theorem ruleSearchHeader_form {src : Option Bool} {limit : Time} {s : State} {r : State × OpOutcome}
    (h : ruleSearchHeader src limit s = .ok r) : FormKept s r.1 := by
  unfold ruleSearchHeader at h
  split at h
  · cases h
    exact .refl s
  · next t ht =>
    split_ifs at h <;> cases h <;> exact (readCell_form ht :)

theorem ruleHeaderHeader_form {src : Option Bool} {limit : Time} {s : State} {r : State × OpOutcome}
    (h : ruleHeaderHeader src limit s = .ok r) : FormKept s r.1 := by
  unfold ruleHeaderHeader at h
  split at h
  · cases h
  split at h
  · cases h
    exact .refl s
  · next t ht =>
    split_ifs at h <;> cases h <;> exact (readCell_form ht :)

theorem ruleReadId_form {src : Option Bool} {limit : Time} {s : State} {r : State × OpOutcome}
    (h : ruleReadId src limit s = .ok r) : FormKept s r.1 := by
  unfold ruleReadId at h
  split at h
  · cases h
    exact .refl s
  · next t ht =>
    have hcell := readCell_form ht
    dsimp only at h
    split_ifs at h
    · cases h
      exact hcell
    · exact hcell.trans (thenDelay_form h :)
    · cases h
      exact hcell

theorem ruleSearchData_form {src : Option Bool} {limit : Time} {s : State} {r : State × OpOutcome}
    (h : ruleSearchData src limit s = .ok r) : FormKept s r.1 := by
  unfold ruleSearchData at h
  split at h
  · cases h
    exact .refl s
  · next t ht =>
    have hcell := readCell_form ht
    dsimp only at h
    split_ifs at h
    · exact hcell.trans (endWith_form h :)
    all_goals
      cases h
      exact hcell

theorem ruleDataHeader_form {src : Option Bool} {limit : Time} {s : State} {r : State × OpOutcome}
    (h : ruleDataHeader src limit s = .ok r) : FormKept s r.1 := by
  unfold ruleDataHeader at h
  split at h
  · cases h
  split at h
  · cases h
    exact .refl s
  · next t ht =>
    have hcell := readCell_form ht
    split_ifs at h
    · cases h
      exact hcell
    · exact hcell.trans (endWith_form h :)
    · cases h
      exact hcell
    · cases h
      exact hcell
    · cases h
      exact hcell
    · exact hcell.trans (endWith_form h :)

theorem ruleSectorData_form {src : Option Bool} {limit : Time} {s : State} {r : State × OpOutcome}
    (h : ruleSectorData src limit s = .ok r) : FormKept s r.1 := by
  unfold ruleSectorData at h
  split at h
  · cases h
    exact .refl s
  · next t ht =>
    have hcell := readCell_form ht
    dsimp only at h
    split_ifs at h
    · cases h
      exact hcell
    · exact hcell.trans (thenDelay_form h :)
    · exact hcell.trans (thenDelay_form h :)
    · cases h
      exact hcell

theorem ruleSkipGap2_form {src : Option Bool} {limit : Time} {s : State} {r : State × OpOutcome}
    (h : ruleSkipGap2 src limit s = .ok r) : FormKept s r.1 := by
  unfold ruleSkipGap2 at h
  split at h
  · cases h
    exact .refl s
  · next t ht =>
    have hcell := readCell_form ht
    split_ifs at h
    · cases h
      exact hcell
    · exact hcell.trans (thenDelay_form h :)

theorem ruleSectorDataByte_form {s : State} {r : State × OpOutcome} (h : ruleSectorDataByte s = .ok r) :
    FormKept s r.1 := by
  have h := confirmed_ok h
  split at h
  · exact endWith_form h
  · next x hx =>
    have hpush : FormKept s x := by
      split_ifs at hx
      · cases hx
        exact .refl s
      · exact fifoPush_form hx
    obtain ⟨t, ht, rfl⟩ := res_map_ok h
    exact hpush.trans (takeCheckpoint_form ht :)

/-- The common end of a load state. -/
theorem loadThen_form {i : Item} {emit : LiveState} {s : State} {r : State × OpOutcome} (h : loadThen i emit s = .ok r) :
    FormKept s r.1 := by
  obtain ⟨t, ht, rfl⟩ := res_map_ok h
  exact (loadItem_form i s).trans (takeCheckpoint_form ht :)

theorem startIfFirst_form (s : State) : FormKept s (startIfFirst s) := by
  unfold startIfFirst
  split <;> exact .refl s

theorem ruleWriteSector_form {s : State} {r : State × OpOutcome} (h : ruleWriteSector s = .ok r) : FormKept s r.1 := by
  have h := confirmed_ok h
  split at h
  · obtain ⟨c, hc, h⟩ := res_bind_ok h
    exact (stopWritingAt_form hc).trans (thenDelay_form h :)
  · exact (startIfFirst_form s).trans (loadThen_form h)

theorem rulePreSectors_form {s : State} {r : State × OpOutcome} (h : rulePreSectors s = .ok r) : FormKept s r.1 :=
  (startIfFirst_form s).trans (loadThen_form (confirmed_ok h))

/-- The common body of the emit states. -/
theorem emitCell_form {limit : Time} {next : State → Bool × LiveState} {s : State} {r : State × OpOutcome}
    (h : emitCell limit next s = .ok r) : FormKept s r.1 := by
  obtain ⟨⟨go, t⟩, hw, h⟩ := res_bind_ok h
  have hcell : FormKept s t := writeCell_form hw
  dsimp only at h
  split at h
  · cases h
    exact hcell
  split at h
  · cases h
    exact hcell
  · refine FormKept.trans (hcell.trans ?_) (thenDelay_form h)
    split <;> exact .refl t

/-- The rule of any state keeps the form (43_read_states, 44_write_states). -/
theorem stateRule_form {st : LiveState} {src : Option Bool} {limit : Time} {s : State} {r : State × OpOutcome}
    (h : stateRule st src limit s = .ok r) : FormKept s r.1 := by
  cases st with
  | idle =>
    cases h
    exact .refl s
  | searchAddressMarkHeader => exact ruleSearchHeader_form h
  | readHeaderBlockHeader => exact ruleHeaderHeader_form h
  | readIdBlock => exact ruleReadId_form h
  | searchAddressMarkData => exact ruleSearchData_form h
  | readDataBlockHeader => exact ruleDataHeader_form h
  | readSectorData => exact ruleSectorData_form h
  | readSectorDataByte => exact ruleSectorDataByte_form h
  | writeSectorSkipGap2 => exact ruleSkipGap2_form h
  | writeSectorData => exact ruleWriteSector_form h
  | writeTrackPreSectors => exact rulePreSectors_form h
  | writeSectorDataByte =>
    unfold stateRule ruleWriteSectorByte at h
    exact emitCell_form h
  | writeTrackPreSectorsByte =>
    unfold stateRule rulePreSectorsByte at h
    exact emitCell_form h
  | writeTrackSector =>
    unfold stateRule ruleTrackSector at h
    exact loadThen_form (confirmed_ok h)
  | writeTrackSectorByte =>
    unfold stateRule ruleTrackSectorByte at h
    exact emitCell_form h
  | writeTrackPostSectors =>
    unfold stateRule rulePostSectors at h
    exact loadThen_form (confirmed_ok h)
  | writeTrackPostSectorsByte =>
    unfold stateRule rulePostSectorsByte at h
    exact emitCell_form h

/-! Live control. -/

/-- LIVE_RUN's loop, turn by turn. -/
theorem runLoop_form {fuel : Nat} {limit : Time} {s : State} {r : State × OpOutcome} (h : runLoop fuel limit s = .ok r) :
    FormKept s r.1 := by
  induction fuel generalizing s with
  | zero =>
    cases h
    exact .refl s
  | succ fuel ih =>
    unfold runLoop at h
    split at h
    · cases h
    · next t o ht =>
      have hturn : FormKept s t := stateRule_form ht
      split_ifs at h
      · exact hturn.trans (ih h)
      · cases h
        exact hturn

/-- LIVE_RUN (45_live_control R263). -/
theorem runTo_form {limit : Time} {s : State} {r : State × OpOutcome} (h : runTo limit s = .ok r) : FormKept s r.1 := by
  unfold runTo at h
  split at h
  · cases h
    exact .refl s
  split at h
  · exact runLoop_form h
  split at h
  · exact runLoop_form h
  · exact (requestWake_form _ s).trans (runLoop_form h)

theorem start_form {d : Nat} {st : LiveState} {s t : State} (h : start d st s = .ok t) : FormKept s t :=
  (takeCheckpoint_form (start_cases h) :)

/-- LIVE_SYNC (45_live_control R267). -/
theorem sync_form {s t : State} (h : sync s = .ok t) : FormKept s t := by
  unfold sync at h
  split at h
  · cases h
    exact .refl s
  split at h
  · obtain ⟨⟨x, o⟩, hx, h⟩ := res_bind_ok h
    obtain ⟨c, hc, h⟩ := res_bind_ok h
    have hrun : FormKept s x := (runTo_form hx :)
    exact (hrun.trans (commitTo_form hc)).trans (takeCheckpoint_form h :)
  · exact syncConfirmed_form h

/-- The second half of LIVE_ABORT. -/
theorem abortFrom_form {s t : State} (h : abortFrom s = .ok t) : FormKept s t := by
  obtain ⟨c, hc, ht⟩ := abortFrom_cases h
  have hstop : FormKept s c := by
    rcases hc with ⟨-, rfl⟩ | hc
    · exact .refl _
    · exact stopWritingAt_form hc
  exact hstop.trans (takeCheckpoint_form ht :)

/-- LIVE_ABORT (45_live_control R268). -/
theorem abort_form {s t : State} (h : abort s = .ok t) : FormKept s t := by
  rcases abort_cases h with h | ⟨r, hr, h⟩
  · exact abortFrom_form h
  · have hrun : FormKept s r.1 := (runTo_form hr :)
    exact hrun.trans (abortFrom_form h)

end Sys2Proof.Proofs
end

section
/-! The canonical form and the FIFO's bound, kept by the Command Engine, the host's accesses and every step (20_memory R70,
R80); an event or an alarm alone moves real time (45_live_control R260). -/

namespace Sys2Proof.Proofs

open Sys2Proof.Machine Sys2Proof.Safety Sys2Proof.Laws

/-! The end of a command. -/

theorem takeFrees_form (n : Nat) (s : State) : FormKept s (takeFrees n s).2 := by
  induction n generalizing s with
  | zero => exact .refl s
  | succ n ih => exact (ih { s with freeCount := s.freeCount + 1 } :)

theorem beginHeadLoad_form (m : MainState) (s : State) : FormKept s (beginHeadLoad m s) := by
  have hslot := setSlot_form s.job.unit.toNat m .unlisted s
  unfold beginHeadLoad
  dsimp only
  split <;> exact hslot

theorem enterResult_form (s : State) : FormKept s (enterResult s) := by
  have hslot := setSlot_form s.job.unit.toNat .idle .commandDone s
  have hunload : ∀ x : State, FormKept x (beginHeadUnload x) := by
    intro x
    unfold beginHeadUnload
    split <;> exact .refl x
  exact ((hslot.trans (hunload _)).trans (emptyFifo_form _) :)

theorem setResult_form (a b c : Byte) (l : List Byte) (s : State) : FormKept s (setResult a b c l s) :=
  (setDrive_sameMed (x := { s.drive s.job.unit.toNat with st0 := a ||| headUnit s.job.hd s.job.unit }) s.job.unit.toNat :)

theorem endJob_form (a b c : Byte) (l : List Byte) (s : State) : FormKept s (endJob a b c l s) :=
  (setResult_form a b c l s).trans (enterResult_form _)

theorem endTransfer_form (a b c : Byte) (l : List Byte) (s : State) : FormKept s (endTransfer a b c l s) := by
  have hslot := (setResult_form a b c l s).trans (setSlot_form s.job.unit.toNat
    ((setResult a b c l s).drive s.job.unit.toNat).mainState .trackDone _)
  unfold endTransfer
  dsimp only
  split <;> exact hslot

theorem resultChrn_form (s : State) : FormKept s (resultChrn s).2 := by
  unfold resultChrn
  split
  · exact takeFrees_form 4 s
  · exact .refl s

theorem endEarly_form (a b c : Byte) (s : State) : FormKept s (endEarly a b c s) :=
  (resultChrn_form s).trans (endJob_form _ _ _ _ _)

theorem endUndescribed_form (s : State) : FormKept s (endUndescribed s) :=
  (takeFrees_form 7 s).trans (endTransfer_form _ _ _ _ _)

theorem complete_form (a b c : Byte) (s : State) : FormKept s (complete a b c s) := by
  unfold complete
  split
  · exact (resultChrn_form s).trans (endTransfer_form _ _ _ _ _)
  · exact endEarly_form a b c s

/-! A finished run. -/

theorem searchHeader_form (s : State) : FormKept s (searchHeader s) :=
  (setSlot_form s.job.unit.toNat (s.drive s.job.unit.toNat).mainState .scanId s :)

theorem setSearchRetries_form (n : Nat) (s : State) : FormKept s (setSearchRetries n s) :=
  setDrive_sameMed s.job.unit.toNat

theorem beginSearch_form (s : State) : FormKept s (beginSearch s) :=
  ((setSearchRetries_form 0 (s.setJob { s.job with idx := 0 })).trans (searchHeader_form _) :)

theorem retrySearch_form (s : State) : FormKept s (retrySearch s) :=
  (setSearchRetries_form _ s).trans (searchHeader_form _)

theorem beginField_form (s : State) : FormKept s (beginField s) :=
  (setSlot_form s.job.unit.toNat (s.drive s.job.unit.toNat).mainState
    (if s.job.kind.toMedium then .sectorWrite else .sectorRead) s :)

theorem sectorDone_form (s : State) : FormKept s (sectorDone s) := by
  unfold sectorDone
  generalize advance s.job = a
  obtain ⟨j, done⟩ := a
  dsimp only
  split
  · exact (endTransfer_form _ _ _ _ (s.setJob j) :)
  split
  · exact (endTransfer_form _ _ _ _ (s.setJob j) :)
  · exact (beginSearch_form (s.setJob j) :)

theorem evaluateId_form (s : State) : FormKept s (evaluateId s) := by
  unfold evaluateId
  dsimp only
  split
  · exact endJob_form _ _ _ _ s
  split
  · exact beginField_form s
  · exact (retrySearch_form (s.setJob (idStatus s.live s.job)) :)

theorem evaluateData_form (s : State) : FormKept s (evaluateData s) := by
  unfold evaluateData
  dsimp only
  split_ifs
  · exact endJob_form _ _ _ _ s
  · exact sectorDone_form s
  · exact endJob_form _ _ _ _ s
  · exact endJob_form _ _ _ _ s
  · exact endJob_form _ _ _ _ s
  · exact endTransfer_form _ _ _ _ s
  · exact sectorDone_form s

theorem evaluate_form (s : State) : FormKept s (evaluate s) := by
  unfold evaluate
  split
  · exact evaluateId_form s
  · exact evaluateData_form s
  · exact .refl s

theorem proceed_form (s : State) : FormKept s (proceed s) := by
  unfold proceed
  split
  · exact evaluate_form s
  · exact .refl s

/-! The steps of the Command Engine. -/

theorem afterIndex_form (s : State) : FormKept s (afterIndex s) := by
  unfold afterIndex
  dsimp only
  split
  · exact .refl s
  · exact .refl s
  · split
    · exact .refl s
    · exact (proceed_form (s.setJob { s.job with idx := s.job.idx + 1 }) :)
  · exact proceed_form s

theorem afterTc_form (s : State) : FormKept s (afterTc s) := by
  unfold afterTc
  split
  · split <;> exact .refl s
  · exact .refl s
  · exact proceed_form s
  · exact .refl s
  · exact .refl s
  · exact (proceed_form (setTcDone s) :)
  · split_ifs <;> exact .refl s

theorem headLoaded_form (s : State) : FormKept s (headLoaded s) := by
  have hslot := setSlot_form s.job.unit.toNat (s.drive s.job.unit.toNat).mainState .headLoadDone s
  unfold headLoaded
  dsimp only
  split_ifs <;> exact hslot

theorem formatDone_form (s : State) : FormKept s (formatDone s) := by
  unfold formatDone
  split <;> exact complete_form _ _ _ s

theorem pendStatus_form (u : Nat) (b : Byte) (s : State) : FormKept s (pendStatus u b s) :=
  (setDrive_sameMed (x := { s.drive u with pending := some (b ||| headUnit false (BitVec.ofNat 2 u)) }) u :)

theorem clientStep_form (c : ClientStep) (s : State) : FormKept s (clientStep c s) := by
  cases c with
  | afterRun =>
    unfold clientStep
    dsimp only
    split
    · exact evaluate_form s
    · exact .refl s
  | afterWake => exact proceed_form s
  | afterIndex => exact afterIndex_form s
  | afterTc => exact afterTc_form s
  | afterNotReady d => exact .refl s
  | headLoaded => exact headLoaded_form s
  | beginSearch => exact beginSearch_form s
  | complete a b c => exact complete_form a b c s
  | formatDone => exact formatDone_form s
  | trackDone => exact enterResult_form s
  | reportNotReady d => exact pendStatus_form d _ s
  | undescribedDone => exact endUndescribed_form s

/-! Seeks and alarms. -/

theorem seekDone_form (u : Nat) (b : Byte) (s : State) : FormKept s (seekDone u b s) :=
  (setDrive_sameMed u).trans (pendStatus_form u b _)

theorem interruptSeek_form (u : Nat) (s : State) : FormKept s (interruptSeek u s) := by
  unfold interruptSeek
  split
  · exact seekDone_form u _ s
  · exact .refl s

theorem stepPulse_form (u : Nat) (out : Bool) (s : State) : FormKept s (stepPulse u out s) :=
  setDrive_sameMed u

theorem recalibrateStep_form (u : Nat) (s : State) : FormKept s (recalibrateStep u s) := by
  unfold recalibrateStep
  dsimp only
  split_ifs
  · exact (setDrive_sameMed u).trans (seekDone_form u _ _)
  · exact seekDone_form u _ s
  · exact stepPulse_form u false s

theorem seekStep_form (u : Nat) (s : State) : FormKept s (seekStep u s) := by
  unfold seekStep seekPulse
  dsimp only
  split
  · exact seekDone_form u _ s
  · exact (setDrive_sameMed u).trans (stepPulse_form u _ _)

theorem seekTick_form (u : Nat) (s : State) : FormKept s (seekTick u s) := by
  have hover : FormKept s (s.setDrive u { s.drive u with stepAt := none }) := setDrive_sameMed u
  unfold seekTick
  dsimp only
  split
  · exact (hover.trans (setDrive_sameMed u)).trans (recalibrateStep_form u _)
  · exact hover.trans (seekStep_form u _)
  · exact hover

theorem beginSeek_form (m : MainState) (u : BitVec 2) (g : Byte) (s : State) : FormKept s (beginSeek m u g s) := by
  have hbegin : FormKept s (toCommand (interruptSeek u.toNat s)) := (interruptSeek_form u.toNat s :)
  unfold beginSeek
  dsimp only
  split_ifs
  · exact hbegin.trans (seekDone_form _ _ _)
  · exact (hbegin.trans (setDrive_sameMed _)).trans (recalibrateStep_form _ _)
  · exact (hbegin.trans (setDrive_sameMed _)).trans (seekStep_form _ _)

theorem headTick_form (s : State) : FormKept s (headTick s) := by
  unfold headTick
  dsimp only
  split <;> exact .refl s

/-- An alarm brings real time to its own; but for that the form is kept (45_live_control R269). -/
theorem sound_form (n : Nat) (a : Alarm) (s : State) : FormKept (reach n s) (sound n a s) := by
  cases a with
  | wake =>
    refine ⟨rfl, rfl, fun h => ⟨h.1, ?_⟩, id⟩
    have hw : Memory.wf s.wakeups = true := h.2
    rw [wf_iff] at hw
    exact (wf_iff _).2 hw.drop
  | index => exact .refl _
  | head => exact headTick_form _
  | seek u => exact seekTick_form u _

/-! The instructions. -/

theorem stateRow_form {st : LiveState} {limit : Time} {s t : State}
    (h : finish (withOutcome (inState st (stateRule st none limit) s)) = .next t) : FormKept s t := by
  obtain ⟨r, hr, rfl⟩ := finish_map_next h
  unfold inState at hr
  split at hr
  · exact (stateRule_form hr :)
  · cases hr
    exact .refl s

theorem passCells_form {bs : List Bool} {s t : State} (h : passCells bs s = .ok t) : FormKept s t := by
  induction bs generalizing s with
  | nil =>
    cases h
    exact .refl _
  | cons b bs ih =>
    obtain ⟨c, hc, h⟩ := res_bind_ok h
    refine FormKept.trans ?_ (ih h)
    unfold passCell at hc
    split at hc
    · obtain ⟨r, hr, rfl⟩ := res_map_ok hc
      exact stateRule_form hr
    · cases hc
      exact .refl s

/-- A word passes under the head (30_encoding R111). -/
theorem wordStep_form {w : Word} {s t : State} (h : wordStep w s = .next t) : FormKept s t := by
  obtain ⟨c, hc, rfl⟩ := finish_map_next h
  exact (passCells_form hc :)

theorem raiseRow_form (f : BitVec 3) (s : State) : FormKept s (raiseRow f s) := by
  unfold raiseRow
  split <;> exact .refl s

theorem writeCfg_form (c : Cfg) (s : State) : FormKept s (writeCfg c s) := by
  rcases writeCfg_cases c s with ⟨-, h⟩ | ⟨-, h⟩ <;> rw [h] <;> exact .refl s

/-- A host command, accepted or ignored. -/
theorem accepted_form {f : State → State} {s t : State} (hf : ∀ x : State, FormKept x (f x))
    (h : accepted s f = .next t) : FormKept s t := by
  unfold accepted at h
  split at h
  · cases h
    exact ((writeCfg_form { s.cfg with tcDone := false } (s.setCtrl { s.ctrl with cmdBuf := [], tc := false })).trans
      (hf _) :)
  · cases h
    exact .refl s

theorem checkDrive_form {j : Job} {go : State → State} (hgo : ∀ x : State, FormKept x (go x)) (s : State) :
    FormKept s (checkDrive j go s) := by
  have hbegin : FormKept s (beginJob j (interruptSeek j.unit.toNat s)) := (interruptSeek_form j.unit.toNat s :)
  unfold checkDrive
  dsimp only
  split_ifs
  · exact hbegin.trans (endEarly_form _ _ _ _)
  · exact hbegin.trans (endEarly_form _ _ _ _)
  · exact hbegin.trans (hgo _)

/-- A command that writes `cfg` and has its head loaded. -/
theorem cfgThenHead_form (m : MainState) (c : State → Cfg) (s : State) : FormKept s (beginHeadLoad m (writeCfg (c s) s)) :=
  (writeCfg_form _ s).trans (beginHeadLoad_form m _)

theorem senseInterrupt_form (s : State) : FormKept s (senseInterrupt s) := by
  unfold senseInterrupt
  split
  · next u _ =>
    exact (setDrive_sameMed (x := { s.drive u with
      pending := none, st0 := (s.drive u).pending.getD st0TopTwo }) u :)
  · exact .refl s

theorem freeResult_form (n : Nat) (s : State) : FormKept s (freeResult n s) := (takeFrees_form n s :)

/-- Every instruction that completes keeps the form. -/
theorem exec_form {i : Instr} {s t : State} (h : exec i s = .next t) : FormKept s t := by
  cases i with
  | reservedOp _ | reservedState _ => cases h
  | pllReset _ | startWriting _ | encodeMfm _ | encodeFm _ | loadRaw _ | crcSeed | crcBit _ | crcByte _ | rollback | idle _ =>
    cases h
    exact .refl s
  | pllSetClock period =>
    obtain ⟨c, hc, rfl⟩ := finish_map_next h
    obtain ⟨-, rfl⟩ := setClock_cases hc
    exact .refl s
  | getNextBit limit =>
    unfold exec execGetNextBit at h
    dsimp only at h
    split at h <;> cases h <;> exact .refl s
  | writeNextBit bit limit =>
    obtain ⟨c, -, rfl⟩ := finish_map_next h
    exact .refl s
  | commit tm =>
    obtain ⟨c, hc, rfl⟩ := finish_map_next h
    exact (commitTo_form hc :)
  | stopWriting tm =>
    obtain ⟨c, hc, rfl⟩ := finish_map_next h
    exact (stopWritingAt_form hc :)
  | readOneBit limit =>
    unfold exec execReadOneBit at h
    dsimp only at h
    split at h
    · cases h
      exact .refl s
    · next c hc =>
      cases h
      exact (readCell_form hc :)
  | writeOneBit limit =>
    obtain ⟨r, hr, rfl⟩ := finish_map_next h
    exact (writeCell_form hr :)
  | liveStart d st =>
    obtain ⟨c, hc, rfl⟩ := finish_map_next h
    exact (start_form hc :)
  | liveRun limit =>
    obtain ⟨r, hr, rfl⟩ := finish_map_next h
    exact (runTo_form hr :)
  | checkpoint =>
    obtain ⟨c, hc, rfl⟩ := finish_map_next h
    exact (takeCheckpoint_form hc :)
  | liveSync =>
    obtain ⟨c, hc, rfl⟩ := finish_map_next h
    exact (sync_form hc :)
  | liveDelay st =>
    obtain ⟨c, hc, rfl⟩ := finish_map_next h
    exact (delayTo_form hc :)
  | liveAbort =>
    obtain ⟨c, hc, rfl⟩ := finish_map_next h
    exact (abort_form hc :)
  | searchAddressMarkHeader limit => exact stateRow_form (st := .searchAddressMarkHeader) (limit := limit) h
  | readHeaderBlockHeader limit => exact stateRow_form (st := .readHeaderBlockHeader) (limit := limit) h
  | readIdBlock limit => exact stateRow_form (st := .readIdBlock) (limit := limit) h
  | searchAddressMarkData limit => exact stateRow_form (st := .searchAddressMarkData) (limit := limit) h
  | readDataBlockHeader limit => exact stateRow_form (st := .readDataBlockHeader) (limit := limit) h
  | readSectorData limit => exact stateRow_form (st := .readSectorData) (limit := limit) h
  | readSectorDataByte limit => exact stateRow_form (st := .readSectorDataByte) (limit := limit) h
  | writeSectorSkipGap2 limit => exact stateRow_form (st := .writeSectorSkipGap2) (limit := limit) h
  | writeSectorData limit => exact stateRow_form (st := .writeSectorData) (limit := limit) h
  | writeSectorDataByte limit => exact stateRow_form (st := .writeSectorDataByte) (limit := limit) h
  | writeTrackPreSectors limit => exact stateRow_form (st := .writeTrackPreSectors) (limit := limit) h
  | writeTrackPreSectorsByte limit => exact stateRow_form (st := .writeTrackPreSectorsByte) (limit := limit) h
  | writeTrackSector limit => exact stateRow_form (st := .writeTrackSector) (limit := limit) h
  | writeTrackSectorByte limit => exact stateRow_form (st := .writeTrackSectorByte) (limit := limit) h
  | writeTrackPostSectors limit => exact stateRow_form (st := .writeTrackPostSectors) (limit := limit) h
  | writeTrackPostSectorsByte limit => exact stateRow_form (st := .writeTrackPostSectorsByte) (limit := limit) h
  | rawWord _ | mfmByte _ _ | fmByte _ | syncMfm | syncFmId | fmDam | fmDdam | mfmIam | fmIam | amId | amData | amDdata
  | amIndex => exact wordStep_form h
  | fDamDeleted | fDataMarkMissing | fOverrun =>
    cases h
    exact raiseRow_form _ s
  | readTrack _ | writeData _ | readData _ | writeDeletedData _ | readDeletedData _ | scanEqual _ | scanLowOrEqual _
  | scanHighOrEqual _ | readId _ _ | formatTrack _ _ _ _ _ _ =>
    exact accepted_form (checkDrive_form (cfgThenHead_form _ _)) h
  | recalibrate _ _ | seek _ _ _ => exact accepted_form (beginSeek_form _ _ _) h
  | senseInterruptStatus _ => exact accepted_form senseInterrupt_form h
  | dumpReg _ | version _ => exact accepted_form (freeResult_form _) h
  | specify _ _ _ | senseDriveStatus _ _ | configure _ _ _ _ | lock _ =>
    dsimp only [exec] at h
    refine accepted_form (fun x => ?_) h
    exact (FormKept.refl x :)

/-! The host's accesses. -/

theorem hostPush_form (v : Byte) (s : State) : FormKept s (hostPush v s) := by
  unfold hostPush
  split
  · cases h : fifoPush v s with
    | none => exact .refl s
    | some t => exact fifoPush_form h
  · exact .refl s

theorem hostPop_form (s : State) : FormKept s (hostPop s) := by
  have hdrained : ∀ x : State, FormKept x (drained x) := by
    intro x
    unfold drained
    split
    · exact enterResult_form x
    · exact .refl x
  unfold hostPop
  split
  · split
    · next b t h => exact (FormKept.trans (fifoPop_form h) (hdrained (answer b t) :) :)
    · exact .refl s
  · exact .refl s

theorem readData_form (s : State) : FormKept s (readData s) := by
  unfold readData
  split
  · exact .refl s
  · split
    · exact hostPop_form s
    · exact .refl s
  · unfold popResult
    split <;> exact .refl s

theorem writeData_form (v : Byte) (s : State) : FormKept s (writeData v s) := by
  unfold writeData
  split
  · exact .refl s
  split
  · unfold commandByte
    dsimp only
    split <;> exact .refl s
  · split
    · exact hostPush_form v s
    · exact .refl s
  · exact .refl s

theorem hostRead_form {off : Nat} {s t : State} (h : hostRead off s = .ok t) : FormKept s t := by
  unfold hostRead at h
  split at h <;> cases h
  · exact .refl s
  · exact .refl s
  · exact .refl s
  · exact .refl s
  · exact .refl s
  · exact readData_form s
  · exact .refl s
  · exact .refl s

/-! Resets. -/

theorem abortForReset_form (s : State) : FormKept s (abortForReset s) := by
  rcases abortForReset_cases s with ⟨a, ha, hr⟩ | ⟨-, -, hr⟩ <;> rw [hr]
  · exact abort_form ha
  · exact .refl s

/-- The reset values, with the media as they are (70_reset_and_hazards R390). -/
theorem resetValues_form (cfg : Cfg) (c : Controller) (s : State) :
    FormKept s (markReset (slotsReset ((blockReset cfg s).setCtrl c))) := by
  have hmed : (s.drives.map fun d => Drive.reset d.med).map Drive.med = s.drives.map Drive.med := List.map_map
  exact ((drives_form hmed).trans (emptyFifo_form _) :)

theorem softReset_form (s : State) : FormKept s (softReset s) :=
  (abortForReset_form s).trans (resetValues_form _ _ _)

theorem hardReset_form (s : State) : FormKept s (hardReset s) :=
  (abortForReset_form s).trans (resetValues_form _ _ _)

theorem leaveReset_form (s : State) : FormKept s (leaveReset s) := by
  have hmed : ∀ (u : Nat) (ds : List Drive), (pendAll u ds).map Drive.med = ds.map Drive.med := by
    intro u ds
    induction ds generalizing u with
    | nil => rfl
    | cons d ds ih => simp [pendAll, ih]
  exact (drives_form (hmed 0 s.drives) :)

theorem writeDor_form (v : Byte) (s : State) : FormKept s (writeDor v s) := by
  unfold writeDor
  dsimp only
  split_ifs
  · exact (softReset_form (s.setCtrl { s.ctrl with dor := v }) :)
  · exact (leaveReset_form (s.setCtrl { s.ctrl with dor := v }) :)
  · exact .refl s

theorem writeDsr_form (v : Byte) (s : State) : FormKept s (writeDsr v s) := by
  unfold writeDsr
  dsimp only
  split
  · exact (softReset_form s).trans (leaveReset_form _ :)
  · exact .refl s

theorem hostWrite_form {off : Nat} {v : Byte} {s t : State} (h : hostWrite off v s = .ok t) : FormKept s t := by
  unfold hostWrite at h
  split at h <;> cases h
  · exact .refl s
  · exact .refl s
  · exact writeDor_form v s
  · exact .refl s
  · exact writeDsr_form v s
  · exact writeData_form v s
  · exact .refl s

/-! Events and the step. -/

theorem readyChanged_form (d : Nat) (b : Byte) (s : State) : FormKept s (readyChanged d b s) := by
  unfold readyChanged
  split
  · exact .refl s
  · exact pendStatus_form d b s

theorem setReady_form (d : Nat) (b : Bool) (s : State) : FormKept s (setReady d b s) := setDrive_form d id

theorem handle_form {e : Event} {s t : State} (h : handle e s = .ok t) : FormKept s t := by
  cases e with
  | tc | operate _ =>
    cases h
    exact .refl s
  | notReady d =>
    have hready := setReady_form d false s
    unfold handle at h
    cases h
    split
    · exact hready
    split
    · exact hready
    · exact hready.trans (readyChanged_form d _ _)
  | nowReady d =>
    cases h
    exact (setReady_form d true s).trans (readyChanged_form d _ _)
  | hardReset =>
    cases h
    exact hardReset_form s
  | softReset =>
    cases h
    exact (softReset_form s).trans (leaveReset_form _)
  | hostWrite off v => exact hostWrite_form h
  | hostRead off => exact hostRead_form h
  | fifoPut v =>
    cases h
    exact hostPush_form v s
  | fifoGet =>
    cases h
    exact hostPop_form s
  | setCfg c =>
    cases h
    exact writeCfg_form c s
  | attach d m =>
    cases h
    exact setDrive_form d fun _ => ⟨ofTimes_wf _, ofTimes_wf _⟩

theorem deliver_form {e : Event} {s t : State} (h : deliver e s = .ok t) : FormKept s t := by
  unfold deliver at h
  split at h
  · cases h
    exact .refl s
  · exact handle_form h

theorem runRequest_form {r : Request} {s t : State} (h : runRequest r s = .next t) : FormKept s t := by
  unfold runRequest at h
  split at h
  · exact exec_form h
  · refine accepted_form (fun x => ?_) h
    exact (FormKept.refl x :)
  · cases h

/-- A request and a step of the Command Engine take no time. -/
theorem step_form_untimed {s t : State} (h : step s = .next t)
    (hin : (∃ (r : Request) (rest : List Input), s.inbox = .request r :: rest) ∨
      ∃ (c : ClientStep) (rest : List Input), s.inbox = .client c :: rest) : FormKept s t := by
  unfold step advanceOne at h
  rcases hin with ⟨r, rest, hin⟩ | ⟨c, rest, hin⟩ <;> rw [hin] at h
  · exact (runRequest_form h :)
  · cases h
    exact (clientStep_form c { s with inbox := rest } :)

/-- Any step brings real time to some tick, the present one or one ahead, and keeps the form there. -/
theorem step_form {s t : State} (h : step s = .next t) : ∃ n : Nat, FormKept (reach n s) t := by
  have hstands : ∀ {x : State}, FormKept s x → FormKept (reach s.now s) x := by
    intro x hx
    rw [reach, Nat.max_self]
    exact hx
  unfold step advanceOne at h
  split at h
  · cases h
    unfold runIdle
    split
    · next n a _ => exact ⟨n, sound_form n a s⟩
    · exact ⟨s.now, hstands (.refl s)⟩
  · exact ⟨s.now, hstands (runRequest_form h :)⟩
  · next c rest _ =>
    cases h
    exact ⟨s.now, hstands (clientStep_form c { s with inbox := rest } :)⟩
  · unfold runEvent at h
    split at h
    · next n a _ =>
      cases h
      exact ⟨n, sound_form n a s⟩
    · exact ⟨_, (deliver_form (finish_next h) :)⟩

/-- Settles O58: what a step keeps at the tick it brings real time to. -/
theorem stepKeepsCanonicalForm : Obligations.StepKeepsCanonicalForm := by
  unfold Obligations.StepKeepsCanonicalForm
  intro s t hmedia hfifo h
  obtain ⟨n, -, hpar, hm, hf⟩ := step_form h
  exact ⟨hm hmedia, hf hfifo, hpar⟩

end Sys2Proof.Proofs
end

section
/-! COMMIT (41_write_encoder R175): where it does nothing, where it is refused, and what it leaves on the medium of the current
drive and of every other (20_memory R72). -/

namespace Sys2Proof.Proofs

open Sys2Proof.Machine Sys2Proof.Safety Sys2Proof.Laws

/-! When COMMIT completes. -/

/-- A time is not before itself (00_scope R10). -/
theorem time_lt_irrefl (t : Time) : Time.lt t t = false := by
  cases t <;> simp [Time.lt]

/-- A time before another is not after it. -/
theorem time_lt_asymm {a b : Time} (h : Time.lt a b = true) : Time.lt b a = false := by
  cases a with
  | never => cases h
  | ticks m =>
    cases b with
    | never => rfl
    | ticks n =>
      simp only [Time.lt, decide_eq_true_eq, decide_eq_false_iff_not] at h ⊢
      omega

/-- COMMIT of an empty span does nothing. -/
theorem commitTo_empty {s : State} {tm : Time} (h : s.pll.writeStart = tm) : commitTo tm s = .ok s := by
  subst h
  unfold commitTo
  split
  · rfl
  · next b hb => rw [if_pos hb]

/-- COMMIT of a span that ends after it began and after everything buffered is one MediumWrite and a new, empty span. -/
theorem commitTo_span {s : State} {b : Nat} {tm : Time} (hstart : s.pll.writeStart = .ticks b)
    (hend : Time.lt (.ticks b) tm = true) (hbuf : ∀ x ∈ s.pll.wbuf, Time.lt x tm = true) :
    commitTo tm s = .ok ((mediumWrite b tm (tickTimes s.pll.wbuf) s).setPll (s.pll.startWriting tm)) := by
  have hne : tm ≠ .ticks b := by
    rintro rfl
    simp [time_lt_irrefl] at hend
  have hordered : (Time.lt (.ticks b) tm && s.pll.wbuf.all (fun x => Time.lt x tm)) = true := by
    simpa [hend] using hbuf
  simp only [commitTo, hstart, if_neg hne, if_pos hordered]

/-- COMMIT at a time before the span, or not after something buffered, is refused. -/
theorem commitTo_refused {s : State} {b : Nat} {tm : Time} (hstart : s.pll.writeStart = .ticks b) (hne : tm ≠ .ticks b)
    (h : Time.lt tm (.ticks b) = true ∨ ∃ x ∈ s.pll.wbuf, Time.lt x tm = false) :
    commitTo tm s = refuse .commitOutOfOrder := by
  have hdisordered : ¬(Time.lt (.ticks b) tm && s.pll.wbuf.all (fun x => Time.lt x tm)) = true := by
    rintro hc
    simp only [Bool.and_eq_true, List.all_eq_true] at hc
    rcases h with h | ⟨x, hx, hlt⟩
    · simp [time_lt_asymm h] at hc
    · simp [hc.2 x hx] at hlt
  simp only [commitTo, hstart, if_neg hne, if_neg hdisordered]

/-! What MediumWrite leaves. -/

/-- The ticks among buffered times. -/
theorem mem_tickTimes (l : List Time) (n : Nat) : n ∈ tickTimes l ↔ Time.ticks n ∈ l := by
  induction l with
  | nil => simp [tickTimes]
  | cons t rest ih => cases t <;> simp [tickTimes, ih]

/-- A medium after MediumWrite of buffered times, time by time (20_memory R72, log 47). -/
theorem writeSpan_has (m : Memory) (b : Nat) (e : Time) (l : List Time) (x : Nat) :
    (m.writeSpan b e (tickTimes l)).has x =
      if l.contains (.ticks x) then true else if b ≤ x ∧ Time.lt (.ticks x) e = true then false else m.has x := by
  have hmem := mem_writeSpan m b e (tickTimes l) x
  rw [mem_tickTimes] at hmem
  simp only [Memory.has, List.contains_eq_mem, decide_eq_true_eq]
  by_cases hl : Time.ticks x ∈ l
  · simp [hmem, hl]
  · by_cases hspan : b ≤ x ∧ Time.lt (.ticks x) e = true
    · simp [hmem, hl, hspan, inSpan]
    · have hout : inSpan b e x = false := by simpa [inSpan] using hspan
      simp [hmem, hl, hspan, hout]

/-- Putting into a slot what it holds changes no slot. -/
theorem setDrive_same (s : State) (u d : Nat) : (s.setDrive u (s.drive u)).drive d = s.drive d := by
  by_cases hd : d = u
  · subst hd
    by_cases hlt : d < s.drives.length
    · exact drive_setDrive s d _ hlt
    · simp [State.drive, hlt]
  · exact drive_setDrive_other s u d _ hd

/-- A written medium of the current drive, as that drive sees it. -/
theorem mediumWrite_current {s : State} (b : Nat) (e : Time) (l : List Nat) (h : s.currentDrive < s.drives.length) :
    (mediumWrite b e l s).drive s.currentDrive = { s.drive s.currentDrive with med := s.medium.write b e l } :=
  drive_setDrive s s.currentDrive _ h

/-- MediumWrite on a medium that can be written: its flux changes as `writeSpan_has` says, and nothing else of the drive. -/
theorem mediumWrite_writable {s w : State} {b : Nat} {e : Time} {l : List Time} (hw : w = mediumWrite b e (tickTimes l) s)
    (hlen : s.currentDrive < s.drives.length) (hpresent : s.medium.present = true) (hwp : s.medium.wp = false) :
    w.medium = { s.medium with flux := w.medium.flux } ∧
    w.drive s.currentDrive = { s.drive s.currentDrive with med := w.medium } ∧
    ∀ x : Nat, w.medium.flux.has x =
      if l.contains (.ticks x) then true
      else if b ≤ x ∧ Time.lt (.ticks x) e = true then false else s.medium.flux.has x := by
  subst hw
  have hdrive := mediumWrite_current b e (tickTimes l) hlen
  have hmed : (mediumWrite b e (tickTimes l) s).medium = s.medium.write b e (tickTimes l) := congrArg Drive.med hdrive
  rw [hdrive, hmed]
  have hwrite : s.medium.write b e (tickTimes l) =
      { s.medium with flux := s.medium.flux.writeSpan b e (tickTimes l) } := by simp [Medium.write, hpresent, hwp]
  rw [hwrite]
  exact ⟨rfl, rfl, writeSpan_has _ b e l⟩

/-- A protected or absent medium is not written: every drive reads as before. -/
theorem mediumWrite_protected {s : State} (b : Nat) (e : Time) (l : List Nat)
    (h : s.medium.present = false ∨ s.medium.wp = true) (d : Nat) : (mediumWrite b e l s).drive d = s.drive d := by
  unfold mediumWrite
  rw [medium_write_protected s.medium b e l h]
  exact setDrive_same s s.currentDrive d

/-- Settles O11: the three equations of COMMIT, and what its MediumWrite leaves. -/
theorem commitReplacesSpan : Obligations.CommitReplacesSpan := by
  unfold Obligations.CommitReplacesSpan
  have hexec : ∀ (s : State) (tm : Time),
      exec (.commit tm) s = finish ((commitTo tm s).map fun s => s.setOutcome .none) := fun _ _ => rfl
  intro s tm
  rw [hexec]
  refine ⟨?_, ?_, ?_⟩
  · rintro (h | h)
    · rw [commitTo_never tm h]
      rfl
    · rw [commitTo_empty h]
      rfl
  · intro b hstart hend hbuf
    rw [commitTo_span hstart hend hbuf]
    refine ⟨_, rfl, rfl, rfl, fun d hd => drive_setDrive_other s s.currentDrive d _ hd, fun hlen hpresent hwp => ?_, ?_⟩
    · exact (mediumWrite_writable rfl hlen hpresent hwp :)
    · exact mediumWrite_protected b tm _
  · intro b hstart hne h
    rw [commitTo_refused hstart hne h]
    rfl

end Sys2Proof.Proofs
end

section
/-! The data register, offset 5, phase by phase and direction by direction (47_host_interface R335, 46_command_engine R290 to
R293, 20_memory R81 to R84). -/

namespace Sys2Proof.Proofs

open Sys2Proof.Machine Sys2Proof.Safety Sys2Proof.Laws

/-! The FIFO. -/

theorem fifoPush_room {b : Byte} {s : State} (h : s.fifo.length < s.par.fifoSize) :
    fifoPush b s = some (s.setFifo (s.fifo ++ [b])) := if_pos h

theorem fifoPush_full {b : Byte} {s : State} (h : s.par.fifoSize ≤ s.fifo.length) : fifoPush b s = none :=
  if_neg (Nat.not_lt.2 h)

theorem fifoPop_empty {s : State} (h : s.fifo = []) : fifoPop s = none := by
  simp [fifoPop, h]

theorem fifoPop_cons {s : State} {b : Byte} {q : List Byte} (h : s.fifo = b :: q) :
    fifoPop s = some (b, s.setFifo q) := by
  simp [fifoPop, h]

/-- No command transfers in both directions. -/
theorem toMedium_of_toHost {k : JobKind} (h : k.toHost = true) : k.toMedium = false := by
  cases k with
  | readData | readDeleted => rfl
  | _ => cases h

/-! What the host may do with the FIFO (20_memory R84, log 49). -/

/-- A write of the FIFO is ignored while a transfer to the host is in execution or the engine puts bytes in. -/
theorem hostPush_closed {s : State} (v : Byte)
    (h : s.ctrl.phase = .execution ∧ s.ctrl.job.kind.toHost = true ∨ engineEnqueues s.live.state = true) :
    hostPush v s = s := by
  have hclosed : hostMayPush s = false := by
    rcases h with ⟨hp, hk⟩ | he
    · simp [hostMayPush, State.job, hp, hk]
    · simp [hostMayPush, he]
  simp [hostPush, hclosed]

/-- A full FIFO takes no byte. -/
theorem hostPush_full {s : State} (v : Byte) (h : s.par.fifoSize ≤ s.fifo.length) : hostPush v s = s := by
  unfold hostPush
  rw [fifoPush_full h]
  exact ite_self s

/-- A transfer to the medium takes the byte, while the engine puts none in. -/
theorem hostPush_open {s : State} (v : Byte) (hk : s.ctrl.job.kind.toMedium = true)
    (he : engineEnqueues s.live.state = false) (hroom : s.fifo.length < s.par.fifoSize) :
    hostPush v s = { s with fifo := s.fifo ++ [v] } := by
  have hnot : s.ctrl.job.kind.toHost = false := by
    cases hh : s.ctrl.job.kind.toHost with
    | false => rfl
    | true => rw [toMedium_of_toHost hh] at hk; cases hk
  have hopen : hostMayPush s = true := by simp [hostMayPush, State.job, hnot, he]
  rw [hostPush, if_pos hopen, fifoPush_room hroom]
  rfl

/-- A read of the FIFO gets a byte that is not given, while a transfer to the medium is in execution or the engine takes
bytes. -/
theorem hostPop_closed {s : State}
    (h : s.ctrl.phase = .execution ∧ s.ctrl.job.kind.toMedium = true ∨ engineDequeues s.live.state = true) :
    hostPop s = answerFree s := by
  have hclosed : hostMayPop s = false := by
    rcases h with ⟨hp, hk⟩ | he
    · simp [hostMayPop, State.job, hp, hk]
    · simp [hostMayPop, he]
  simp [hostPop, hclosed]

/-- A read of an empty FIFO gets a byte that is not given. -/
theorem hostPop_empty {s : State} (h : s.fifo = []) : hostPop s = answerFree s := by
  unfold hostPop
  rw [fifoPop_empty h]
  exact ite_self _

/-- A transfer to the host gives its next byte, while the engine takes none. -/
theorem hostPop_open {s : State} {b : Byte} {q : List Byte} (hk : s.ctrl.job.kind.toHost = true)
    (he : engineDequeues s.live.state = false) (hq : s.fifo = b :: q) :
    hostPop s = drained { s with fifo := q, hostData := b } := by
  have hopen : hostMayPop s = true := by simp [hostMayPop, State.job, toMedium_of_toHost hk, he]
  rw [hostPop, if_pos hopen, fifoPop_cons hq]
  rfl

/-! The register. -/

/-- A command byte is appended; when the command is complete its request is issued (46_command_engine R291). -/
theorem commandByte_append {s : State} {v : Byte} (h : s.ctrl.cmdBuf.length < s.par.cmdBufLen) :
    let buf := s.ctrl.cmdBuf ++ [v]
    let t := { s with ctrl := { s.ctrl with cmdBuf := buf } }
    commandByte v s =
      if (commandLength (buf.headD 0)).getD 1 ≤ buf.length then t.issue [.request ⟨.hostcmd, buf, []⟩] else t := by
  have hfits : (s.ctrl.cmdBuf ++ [v]).take s.par.cmdBufLen = s.ctrl.cmdBuf ++ [v] :=
    List.take_of_length_le (by simpa using h)
  simp only [commandByte, hfits]
  rfl

/-- An opcode without a length is no host command (46_command_engine R291, R292). -/
theorem decodeHost_unknown {v : Byte} (h : commandLength v = none) (rest : List Byte) :
    decodeHost v rest = .error .unknownHostCommand := by
  unfold commandLength at h
  unfold decodeHost
  dsimp only
  generalize (v.extractLsb' 0 5).toNat = k at h ⊢
  split
  any_goals cases h
  rfl

/-- An opcode that is no command: RESULT with the one byte 0x80 and INTRQ (46_command_engine R292, log 41). -/
theorem step_unknownCommand {s : State} {v : Byte} {rest : List Input} (hr : heldInReset s = false)
    (hp : s.ctrl.phase = .command) (hv : commandLength v = none) (hbuf : 1 ≤ s.par.resBufLen)
    (hin : s.inbox = .request ⟨.hostcmd, [v], []⟩ :: rest) :
    ∃ t : State, step s = .next t ∧ t.ctrl.phase = .result ∧ t.ctrl.resBuf = [0x80] ∧ t.ctrl.st0 = 0x80 ∧
      t.ctrl.intrq = true ∧ t.inbox = rest := by
  have hdecode : decode ⟨.hostcmd, [v], []⟩ = .error .unknownHostCommand := decodeHost_unknown hv []
  have hstep : step s = accepted { s with inbox := rest } invalidCommand := by
    simp only [step, advanceOne, hin, runRequest, hdecode]
  refine ⟨_, hstep.trans (accepted_command invalidCommand hp hr), rfl, ?_, rfl, rfl, ?_⟩
  · show [st0Invalid].take (writeCfg _ _).par.resBufLen = [0x80]
    rw [writeCfg_par]
    exact List.take_of_length_le hbuf
  · show (writeCfg _ _).inbox = rest
    rw [writeCfg_inbox]
    rfl

/-- The next result byte; the last one leads back to COMMAND (47_host_interface R335, log 22, log 41). -/
theorem popResult_next {s : State} {b : Byte} {q : List Byte} (h : s.ctrl.resBuf = b :: q) :
    (popResult s).hostData = b ∧ (popResult s).ctrl.resBuf = q ∧ (popResult s).fifo = s.fifo ∧
    (popResult s).live = s.live ∧
    (popResult s).ctrl.phase = (if q = [] then .command else s.ctrl.phase) ∧
    (q = [] → (popResult s).ctrl.intrq = (s.ctrl.intrq && s.ctrl.job.kind == .senseInterrupt)) := by
  cases q with
  | nil =>
    simp only [popResult, h]
    exact ⟨rfl, rfl, rfl, rfl, rfl, fun _ => rfl⟩
  | cons c q =>
    simp only [popResult, h]
    exact ⟨rfl, rfl, rfl, rfl, rfl, nofun⟩

/-- A write of the data register is ignored out of COMMAND, but for a command that transfers to the medium. -/
theorem writeData_ignored {s : State} (v : Byte)
    (h : s.ctrl.phase = .result ∨ s.ctrl.phase = .execution ∧ s.ctrl.job.kind.toMedium = false) : writeData v s = s := by
  unfold writeData
  rcases h with hp | ⟨hp, hk⟩
  · simp only [hp, ite_self]
  · simp [hp, hk, State.job]

/-- A write of the data register in EXECUTION of a command that transfers to the medium is one of the FIFO. -/
theorem writeData_execution {s : State} (v : Byte) (hr : heldInReset s = false) (hp : s.ctrl.phase = .execution)
    (hk : s.ctrl.job.kind.toMedium = true) : writeData v s = hostPush v s := by
  simp [writeData, hr, hp, hk, State.job]

/-- A write of the data register in COMMAND is a command byte. -/
theorem writeData_command {s : State} (v : Byte) (hr : heldInReset s = false) (hp : s.ctrl.phase = .command) :
    writeData v s = commandByte v s := by
  simp [writeData, hr, hp]

/-- A read of the data register is ignored in COMMAND, and in EXECUTION but for a command that transfers to the host. -/
theorem readData_ignored {s : State}
    (h : s.ctrl.phase = .command ∨ s.ctrl.phase = .execution ∧ s.ctrl.job.kind.toHost = false) :
    readData s = answerFree s := by
  unfold readData
  rcases h with hp | ⟨hp, hk⟩
  · simp only [hp]
  · simp [hp, hk, State.job]

/-- A read of the data register in EXECUTION of a command that transfers to the host is one of the FIFO. -/
theorem readData_execution {s : State} (hp : s.ctrl.phase = .execution) (hk : s.ctrl.job.kind.toHost = true) :
    readData s = hostPop s := by
  simp [readData, hp, hk, State.job]

/-- Until the last byte of a finished read is taken nothing more happens. -/
theorem drained_waits {s : State} (h : s.ctrl.job.step ≠ .draining ∨ s.fifo ≠ []) : drained s = s := by
  rw [drained, if_neg]
  rintro ⟨hs, hq⟩
  rcases h with h | h
  · exact h hs
  · exact h hq

/-- The last byte of a finished read leads to RESULT, with INTRQ (log 21). -/
theorem drained_done {s : State} (hs : s.ctrl.job.step = .draining) (hq : s.fifo = []) : drained s = enterResult s :=
  if_pos ⟨hs, hq⟩

/-- COMMAND_DONE: RESULT, with INTRQ (46_command_engine R306). -/
theorem enterResult_result (s : State) :
    (enterResult s).hostData = s.hostData ∧ (enterResult s).ctrl.phase = .result ∧ (enterResult s).ctrl.intrq = true := by
  unfold enterResult beginHeadUnload
  dsimp only
  split <;> exact ⟨rfl, rfl, rfl⟩

/-- The register is at offset 5. -/
theorem hostWrite_data (v : Byte) (s : State) : hostWrite 5 v s = .ok (writeData v s) := rfl

theorem hostRead_data (s : State) : hostRead 5 s = .ok (readData s) := rfl

theorem deliver_fifoPut {s : State} (v : Byte) (h : s.resetAt ≠ some s.now) :
    deliver (.fifoPut v) s = .ok (hostPush v s) := by
  simp [deliver, atReset, h, handle]

theorem deliver_fifoGet {s : State} (h : s.resetAt ≠ some s.now) : deliver .fifoGet s = .ok (hostPop s) := by
  simp [deliver, atReset, h, handle]

/-- Settles O52: an equation of the register for each phase and direction. -/
theorem dataRegisterByPhase : Obligations.DataRegisterByPhase := by
  unfold Obligations.DataRegisterByPhase
  refine ⟨fun s v hr => ?_, fun s v hat => ?_⟩
  · rw [hostWrite_data, hostRead_data]
    refine ⟨?_, ?_, ?_, ?_, ?_, ?_, ?_, ?_, ?_⟩
    · rintro hp hroom buf n rfl rfl
      rw [writeData_command v hr hp, commandByte_append hroom]
      exact ⟨fun hshort => by rw [if_neg (Nat.not_le.2 hshort)], fun hlong => by rw [if_pos hlong]; rfl⟩
    · exact fun hp hv hbuf rest hin => step_unknownCommand hr hp hv hbuf hin
    · intro hp
      rw [writeData_ignored v (.inl hp)]
    · intro hp hk
      rw [writeData_ignored v (.inr ⟨hp, hk⟩)]
    · intro hp hk
      rw [writeData_execution v hr hp hk]
      exact ⟨fun hroom he => by rw [hostPush_open v hk he hroom], fun hfull => by rw [hostPush_full v hfull]⟩
    · intro h
      rw [readData_ignored h]
      exact ⟨_, rfl⟩
    · intro hp hk hq
      rw [readData_execution hp hk, hostPop_empty hq]
      exact ⟨_, rfl⟩
    · intro hp hk he b q hq
      rw [readData_execution hp hk, hostPop_open hk he hq]
      refine ⟨fun hmore => by rw [drained_waits hmore], fun hs hlast => ?_⟩
      exact ⟨_, congrArg Except.ok (drained_done hs hlast), enterResult_result _⟩
    · intro hp b q hq
      obtain ⟨hdata, hbuf, hfifo, hlive, hphase, hintrq⟩ := popResult_next hq
      have hpop : readData s = popResult s := by simp only [readData, hp]
      rw [hpop]
      refine ⟨_, rfl, hdata, hbuf, hfifo, hlive, hp ▸ hphase, fun hnil hk => ?_, fun hnil hk => ?_⟩
      · simp [hintrq hnil, hk]
      · simp [hintrq hnil, hk]
  · rw [deliver_fifoPut v hat, deliver_fifoGet hat]
    refine ⟨fun h => by rw [hostPush_closed v h], fun h => ?_⟩
    rw [hostPop_closed h]
    exact ⟨_, rfl⟩

end Sys2Proof.Proofs
end

section
/-! The scheduler (45_live_control R260, R269, 60_exceptions R360, R361): the alarms in the order of one tick, which of them is
due first, and the step that takes it (log 18). -/

namespace Sys2Proof.Proofs

open Sys2Proof.Machine Sys2Proof.Safety Sys2Proof.Laws

/-! The order of the alarms. -/

/-- The place of an alarm among those of one tick (log 18). -/
def rank : Alarm → Nat
  | .wake => 0
  | .index => 1
  | .head => 2
  | .seek u => 3 + u

@[simp] theorem rank_wake : rank .wake = 0 := rfl
@[simp] theorem rank_index : rank .index = 1 := rfl
@[simp] theorem rank_head : rank .head = 2 := rfl
@[simp] theorem rank_seek (u : Nat) : rank (.seek u) = 3 + u := rfl

/-- The seek timers that run are those of the slots with a step time. -/
theorem mem_seekTimers (u : Nat) (ds : List Drive) (x : Nat × Alarm) :
    x ∈ seekTimers u ds ↔
      ∃ v k : Nat, v < ds.length ∧ (ds.getD v (Drive.reset Medium.none)).stepAt = some k ∧ x = (k, .seek (u + v)) := by
  induction ds generalizing u with
  | nil => simp [seekTimers]
  | cons d ds ih =>
    have hrest : x ∈ seekTimers (u + 1) ds ↔ ∃ v k : Nat, v + 1 < (d :: ds).length ∧
        ((d :: ds).getD (v + 1) (Drive.reset Medium.none)).stepAt = some k ∧ x = (k, .seek (u + (v + 1))) := by
      simp only [ih, List.length_cons, Nat.add_lt_add_iff_right, List.getD_cons_succ, Nat.add_assoc, Nat.add_comm 1]
    have hfirst : x ∈ seekTimers u (d :: ds) ↔
        (∃ k : Nat, d.stepAt = some k ∧ x = (k, .seek u)) ∨ x ∈ seekTimers (u + 1) ds := by
      rw [seekTimers]
      cases hd : d.stepAt <;> simp
    rw [hfirst, hrest]
    constructor
    · rintro (⟨k, hk, rfl⟩ | ⟨v, k, hv⟩)
      · exact ⟨0, k, by simp, hk, rfl⟩
      · exact ⟨v + 1, k, hv⟩
    · rintro ⟨v, k, hv, hk, rfl⟩
      cases v with
      | zero => exact .inl ⟨k, hk, rfl⟩
      | succ v => exact .inr ⟨v, k, hv, hk, rfl⟩

/-- The lowest drive's seek timer comes first. -/
theorem seekTimers_ranked (u : Nat) (ds : List Drive) :
    (seekTimers u ds).Pairwise fun x y => rank x.2 < rank y.2 := by
  induction ds generalizing u with
  | nil => exact .nil
  | cons d ds ih =>
    unfold seekTimers
    split
    · refine List.pairwise_cons.2 ⟨fun y hy => ?_, ih (u + 1)⟩
      obtain ⟨v, k, -, -, rfl⟩ := (mem_seekTimers (u + 1) ds y).1 hy
      simp only [rank_seek]
      omega
    · exact ih (u + 1)

/-- Everything the scheduler may deliver: the first wake-up, the next index pulse, the head timer, the seek timers. -/
theorem mem_alarms (s : State) (x : Nat × Alarm) :
    x ∈ alarms s ↔
      (∃ n : Nat, s.wakeups.head? = some n ∧ x = (n, .wake)) ∨ (∃ n : Nat, nextIndex s = .ticks n ∧ x = (n, .index)) ∨
      (∃ n : Nat, s.ctrl.headAt = some n ∧ x = (n, .head)) ∨
      ∃ u n : Nat, u < s.drives.length ∧ (s.drive u).stepAt = some n ∧ x = (n, .seek u) := by
  have hseek := mem_seekTimers 0 s.drives x
  simp only [Nat.zero_add] at hseek
  simp only [alarms, List.mem_append, hseek, State.drive]
  rcases s.wakeups with _ | ⟨w, ws⟩ <;> cases nextIndex s <;> cases s.ctrl.headAt <;> simp [or_assoc]

/-- They are listed in the order of one tick. -/
theorem alarms_ranked (s : State) : (alarms s).Pairwise fun x y => rank x.2 < rank y.2 := by
  have hseek := seekTimers_ranked 0 s.drives
  have hlast : ∀ x ∈ seekTimers 0 s.drives, 3 ≤ rank x.2 := by
    intro x hx
    obtain ⟨v, k, -, -, rfl⟩ := (mem_seekTimers 0 s.drives x).1 hx
    simp
  have hbefore : ∀ k ≤ 2, ∀ x ∈ seekTimers 0 s.drives, k < rank x.2 :=
    fun k hk x hx => Nat.lt_of_le_of_lt hk (hlast x hx)
  have h0 := hbefore 0 (by decide)
  have h1 := hbefore 1 (by decide)
  have h2 := hbefore 2 (by decide)
  unfold alarms
  rcases s.wakeups with _ | ⟨w, ws⟩ <;> cases nextIndex s <;> cases s.ctrl.headAt <;>
    simp +contextual [-Prod.forall, hseek, h0, h1, h2]

/-- The first alarm is one of them. -/
theorem firstAlarm_mem {l : List (Nat × Alarm)} {a : Nat × Alarm} (h : firstAlarm l = some a) : a ∈ l := by
  induction l generalizing a with
  | nil => cases h
  | cons x rest ih =>
    unfold firstAlarm at h
    split at h
    · cases h
      exact List.mem_cons_self
    · next b hb =>
      split at h <;> cases h
      · exact List.mem_cons_of_mem _ (ih hb)
      · exact List.mem_cons_self

/-- The first alarm is the least by its time, and at one tick by its place. -/
theorem firstAlarm_eq {l : List (Nat × Alarm)} {a : Nat × Alarm} (hranked : l.Pairwise fun x y => rank x.2 < rank y.2)
    (ha : a ∈ l) (hle : ∀ x ∈ l, a.1 ≤ x.1) (hlt : ∀ x ∈ l, rank x.2 < rank a.2 → a.1 < x.1) :
    firstAlarm l = some a := by
  induction l with
  | nil => cases ha
  | cons x rest ih =>
    obtain ⟨hx, hrest⟩ := List.pairwise_cons.1 hranked
    rw [List.forall_mem_cons] at hle hlt
    unfold firstAlarm
    rcases List.mem_cons.1 ha with rfl | ha
    · cases hfirst : firstAlarm rest with
      | none => rfl
      | some b =>
        have hb := hle.2 b (firstAlarm_mem hfirst)
        simp only [if_neg (Nat.not_lt.2 hb)]
    · rw [ih hrest ha hle.2 hlt.2]
      simp [hlt.1 (hx a ha)]

/-! What is due. -/

/-- The tick before which `QuietUntil` says that an alarm does not come. -/
def earliest (wake index head : Nat) (seek : Nat → Nat) : Alarm → Nat
  | .wake => wake
  | .index => index
  | .head => head
  | .seek u => seek u

section Earliest

variable (w i h : Nat) (k : Nat → Nat)

@[simp] theorem earliest_wake : earliest w i h k .wake = w := rfl
@[simp] theorem earliest_index : earliest w i h k .index = i := rfl
@[simp] theorem earliest_head : earliest w i h k .head = h := rfl
@[simp] theorem earliest_seek (u : Nat) : earliest w i h k (.seek u) = k u := rfl

end Earliest

/-- No alarm comes before its earliest tick. -/
theorem earliest_le {w i h : Nat} {k : Nat → Nat} {s : State} (hq : QuietUntil w i h k s) :
    ∀ x ∈ alarms s, earliest w i h k x.2 ≤ x.1 := by
  obtain ⟨hwake, hindex, hhead, hseek⟩ := hq
  intro x hx
  rcases (mem_alarms s x).1 hx with ⟨n, hn, rfl⟩ | ⟨n, hn, rfl⟩ | ⟨n, hn, rfl⟩ | ⟨u, n, hu, hn, rfl⟩
  · exact hwake n hn
  · exact hindex n hn
  · exact hhead n hn
  · exact hseek u n hu hn

/-- With every alarm after the limit nothing is due. -/
theorem dueBy_none {s : State} {limit : Time} (h : ∀ x ∈ alarms s, Time.le (.ticks x.1) limit = false) :
    dueBy limit s = none := by
  unfold dueBy
  split
  · rfl
  · next a ha => simp [h a (firstAlarm_mem ha)]

/-- Due is the alarm before which no other comes, and none at its tick that has an earlier place there. -/
theorem dueBy_some {s : State} {n : Nat} {a : Alarm} {limit : Time} {w i h : Nat} {k : Nat → Nat} (ha : (n, a) ∈ alarms s)
    (hq : QuietUntil w i h k s) (hle : ∀ b : Alarm, n ≤ earliest w i h k b)
    (hlt : ∀ b : Alarm, rank b < rank a → n < earliest w i h k b) (hlimit : Time.le (.ticks n) limit = true) :
    dueBy limit s = some (n, a) := by
  have hfirst : firstAlarm (alarms s) = some (n, a) := by
    refine firstAlarm_eq (alarms_ranked s) ha (fun x hx => ?_) (fun x hx hr => ?_)
    · exact Nat.le_trans (hle x.2) (earliest_le hq x hx)
    · exact Nat.lt_of_lt_of_le (hlt x.2 hr) (earliest_le hq x hx)
  simp only [dueBy, hfirst, hlimit, if_true]

/-- The step that takes an alarm: with an event waiting, one due by its time, with nothing waiting any. -/
theorem step_alarm {s : State} {n : Nat} {a : Alarm} {w i h : Nat} {k : Nat → Nat}
    (hin : (∃ (t : Nat) (e : Event) (rest : List Input), s.inbox = .event t e :: rest ∧ n ≤ t) ∨ s.inbox = [])
    (ha : (n, a) ∈ alarms s) (hq : QuietUntil w i h k s) (hle : ∀ b : Alarm, n ≤ earliest w i h k b)
    (hlt : ∀ b : Alarm, rank b < rank a → n < earliest w i h k b) : step s = .next (sound n a s) := by
  unfold step advanceOne
  rcases hin with ⟨t, e, rest, hin, ht⟩ | hin
  · have hdue := dueBy_some (limit := .ticks t) ha hq hle hlt (decide_eq_true ht)
    simp only [hin, runEvent, hdue]
  · have hdue := dueBy_some (limit := .never) ha hq hle hlt rfl
    simp only [hin, runIdle, hdue]

/-- The step that delivers an event: no alarm comes up to its time. -/
theorem step_event {s : State} {t : Nat} {e : Event} {rest : List Input} (hin : s.inbox = .event t e :: rest)
    (hq : QuietUntil (t + 1) (t + 1) (t + 1) (fun _ => t + 1) s) :
    step s = finish (deliver e { s with inbox := rest, now := max s.now t }) := by
  have hdue : dueBy (.ticks t) s = none := by
    refine dueBy_none fun x hx => ?_
    have hlate : earliest (t + 1) (t + 1) (t + 1) (fun _ => t + 1) x.2 ≤ x.1 := earliest_le hq x hx
    have hafter : t + 1 ≤ x.1 := by cases hx2 : x.2 <;> simpa [hx2] using hlate
    exact decide_eq_false (by omega)
  unfold step advanceOne
  simp only [hin, runEvent, hdue]
  rfl

/-- The step with nothing waiting and no alarm. -/
theorem step_rests {s : State} (hin : s.inbox = []) (hwake : s.wakeups = []) (hindex : nextIndex s = .never)
    (hhead : s.ctrl.headAt = none) (hseek : ∀ d ∈ s.drives, d.stepAt = none) : step s = .next s := by
  have hnone : alarms s = [] := by
    rw [List.eq_nil_iff_forall_not_mem]
    intro x hx
    rcases (mem_alarms s x).1 hx with ⟨n, hn, -⟩ | ⟨n, hn, -⟩ | ⟨n, hn, -⟩ | ⟨u, n, hu, hn, -⟩
    · simp [hwake] at hn
    · simp [hindex] at hn
    · simp [hhead] at hn
    · have hslot : s.drive u = s.drives[u] := by simp [State.drive, hu]
      rw [hslot, hseek _ (List.getElem_mem hu)] at hn
      cases hn
  have hdue : dueBy .never s = none := dueBy_none (by simp [hnone])
  simp only [step, advanceOne, hin, runIdle, hdue]

/-! A medium's index. -/

/-- The least listed time not before `t`. -/
theorem nextFrom_iff {m : Memory} (hm : Memory.wf m = true) (t n : Nat) :
    m.nextFrom t = .ticks n ↔ m.has n = true ∧ t ≤ n ∧ ∀ k : Nat, m.has k = true → t ≤ k → n ≤ k := by
  simp only [Memory.has, List.contains_eq_mem, decide_eq_true_eq]
  rw [wf_iff] at hm
  induction m with
  | nil => simp [Memory.nextFrom]
  | cons x rest ih =>
    obtain ⟨hx, hrest⟩ := List.pairwise_cons.1 hm
    unfold Memory.nextFrom
    split
    · next hle =>
      rw [Time.ticks.injEq]
      constructor
      · rintro rfl
        refine ⟨List.mem_cons_self, hle, fun k hk _ => ?_⟩
        rcases List.mem_cons.1 hk with rfl | hk
        · exact Nat.le_refl _
        · exact Nat.le_of_lt (hx k hk)
      · rintro ⟨hn, -, hleast⟩
        have hnx := hleast x List.mem_cons_self hle
        rcases List.mem_cons.1 hn with rfl | hn
        · rfl
        · exact absurd (hx n hn) (by omega)
    · next hlt =>
      have hmem : ∀ k : Nat, t ≤ k → (k ∈ x :: rest ↔ k ∈ rest) := by
        intro k hk
        rw [List.mem_cons, or_iff_right]
        omega
      rw [ih hrest]
      constructor
      · rintro ⟨hn, ht, hleast⟩
        exact ⟨(hmem n ht).2 hn, ht, fun k hk htk => hleast k ((hmem k htk).1 hk) htk⟩
      · rintro ⟨hn, ht, hleast⟩
        exact ⟨(hmem n ht).1 hn, ht, fun k hk htk => hleast k ((hmem k htk).2 hk) htk⟩

/-- The next index pulse of the live drive: the least instant on its medium that is not past and not delivered yet
(20_memory R73). -/
theorem nextIndex_live {s : State} {d : Nat} (hd : s.live.drive = some d) (hpresent : (s.drive d).med.present = true)
    (hwf : (s.drive d).med.index.wf = true) (n : Nat) :
    nextIndex s = .ticks n ↔ (s.drive d).med.index.has n = true ∧ s.now ≤ n ∧ s.idxDone ≤ n ∧
      ∀ k : Nat, (s.drive d).med.index.has k = true → s.now ≤ k → s.idxDone ≤ k → n ≤ k := by
  have hnext : nextIndex s = (s.drive d).med.index.nextFrom (max s.now s.idxDone) := by
    simp only [nextIndex, watched, hd, hpresent, if_true]
  rw [hnext, nextFrom_iff hwf]
  simp only [Nat.max_le, and_imp, and_assoc]

/-! What alarms do. -/

/-- A head that no command waits for is unloaded (log 36). -/
theorem headTick_unload {s : State} (h : s.ctrl.job.step ≠ .headLoad) :
    headTick s = { s with ctrl := { s.ctrl with headAt := none, headLoad := false } } := if_neg h

/-- At a wake-up a running engine runs on (45_live_control R260). -/
theorem afterWake_runs {s : State} (h : s.live.state ≠ .idle) :
    clientStep .afterWake s = { s with inbox := runInputs ++ s.inbox } := if_neg h

/-- Real time moves forward, and not at a request or a step of the Command Engine. -/
theorem step_now {s t : State} (h : step s = .next t) :
    s.now ≤ t.now ∧ ((∃ (r : Request) (rest : List Input), s.inbox = .request r :: rest) ∨
      (∃ (c : ClientStep) (rest : List Input), s.inbox = .client c :: rest) → t.now = s.now) := by
  refine ⟨?_, fun hin => (step_form_untimed h hin).1⟩
  obtain ⟨n, hnow, -⟩ := step_form h
  rw [hnow]
  exact Nat.le_max_left _ _

/-- Settles O55: `step_now`, `step_alarm` for the alarm of each kind, `step_event`, `step_rests` and `nextIndex_live`. -/
theorem schedulerResult : Obligations.SchedulerResult := by
  unfold Obligations.SchedulerResult
  refine ⟨fun s t h => step_now h, fun s n hin => ⟨?_, ?_, ?_, ?_⟩, fun s t e rest hin hq => step_event hin hq,
    fun s hin hw hi hh hk => step_rests hin hw hi hh hk, ?_, fun s h => afterWake_runs h, fun s h => headTick_unload h⟩
  · intro rest hw hq
    have ha : (n, .wake) ∈ alarms s := (mem_alarms s _).2 (.inl ⟨n, by rw [hw]; rfl, rfl⟩)
    have hle : ∀ b : Alarm, n ≤ earliest n n n (fun _ => n) b := by rintro (_ | _ | _ | v) <;> simp
    rw [step_alarm hin ha hq hle (by simp), sound, hw]
    rfl
  · intro hi hq
    have ha : (n, .index) ∈ alarms s := (mem_alarms s _).2 (.inr (.inl ⟨n, hi, rfl⟩))
    have hle : ∀ b : Alarm, n ≤ earliest (n + 1) n n (fun _ => n) b := by rintro (_ | _ | _ | v) <;> simp
    rw [step_alarm hin ha hq hle (by rintro (_ | _ | _ | v) <;> simp)]
    rfl
  · intro hh hq
    have ha : (n, .head) ∈ alarms s := (mem_alarms s _).2 (.inr (.inr (.inl ⟨n, hh, rfl⟩)))
    have hle : ∀ b : Alarm, n ≤ earliest (n + 1) (n + 1) n (fun _ => n) b := by rintro (_ | _ | _ | v) <;> simp
    rw [step_alarm hin ha hq hle (by rintro (_ | _ | _ | v) <;> simp; omega)]
    rfl
  · intro u hu hk hq
    have ha : (n, .seek u) ∈ alarms s := (mem_alarms s _).2 (.inr (.inr (.inr ⟨u, n, hu, hk, rfl⟩)))
    have hle : ∀ b : Alarm, n ≤ earliest (n + 1) (n + 1) (n + 1) (fun v => if v < u then n + 1 else n) b := by
      rintro (_ | _ | _ | v) <;> simp
      split <;> omega
    rw [step_alarm hin ha hq hle (by rintro (_ | _ | _ | v) <;> simp +contextual)]
    rfl
  · rintro s d m n hd rfl hpresent hwf
    exact nextIndex_live hd hpresent hwf n

end Sys2Proof.Proofs
end

section
/-! The encodings (30_encoding R111 to R116, R134 to R136, R139; 46_command_engine R291): the decoder reads back what the encoder
writes, every raw word has one reading, and a step runs the instruction its request decodes to. -/

namespace Sys2Proof.Proofs

open Sys2Proof.Machine Sys2Proof.Safety Sys2Proof.Laws

/-! Operands. -/

/-- An `n`-bit number is read back from its operand. -/
theorem bitsArg_toNat {r : Request} {n k : Nat} {v : BitVec n} (h : r.operand k = .ticks v.toNat) :
    r.bitsArg n k = .ok v := by
  simp only [Request.bitsArg, h, if_pos v.isLt, BitVec.ofNat_toNat, BitVec.setWidth_eq]

/-- A bit is read back from its operand. -/
theorem bitArg_bitOperand {r : Request} {k : Nat} {b : Bool} (h : r.operand k = bitOperand b) : r.bitArg k = .ok b := by
  cases b <;> simp only [Request.bitArg, h] <;> rfl

/-- A state is read back from its code (30_encoding R135). -/
theorem stateArg_stateCode {r : Request} {k : Nat} {st : LiveState} (h : r.operand k = .ticks (stateCode st)) :
    r.stateArg k = .ok st := by
  simp only [Request.stateArg, h, stateOfCode_stateCode]

/-! Words of the medium. -/

/-- Bit `k` of the clock cells of an MFM byte (30_encoding R113). -/
theorem getLsbD_mfmClocks (p : Bool) (v : Byte) {k : Nat} (hk : k < 8) :
    (mfmClocks p v).getLsbD k = (!v.getLsbD k && !(if k = 7 then p else v.getLsbD (k + 1))) := by
  simp only [mfmClocks, getLsbD_fromBits, hk, decide_true, Bool.true_and, Bool.and_comm]

/-- The data cells of interleaved cells stand at the even bits (30_encoding R111). -/
theorem getLsbD_interleave_data (c d : Byte) {k : Nat} (hk : k < 8) : (interleave c d).getLsbD (2 * k) = d.getLsbD k := by
  have h : 2 * k < 16 := by omega
  simp only [interleave, getLsbD_fromBits]
  simp [h]

/-- The clock cells of interleaved cells stand at the odd bits (30_encoding R111). -/
theorem getLsbD_interleave_clock (c d : Byte) {k : Nat} (hk : k < 8) :
    (interleave c d).getLsbD (2 * k + 1) = c.getLsbD k := by
  have h : 2 * k + 1 < 16 := by omega
  have hhalf : (2 * k + 1) / 2 = k := by omega
  simp only [interleave, getLsbD_fromBits]
  simp [h, hhalf]

@[simp] theorem dataByte_mfmWord (p : Bool) (v : Byte) : dataByte (mfmWord p v) = v := dataByte_interleave _ v

@[simp] theorem dataByte_fmWord (v : Byte) : dataByte (fmWord v) = v := dataByte_interleave _ v

@[simp] theorem isFmWord_fmWord (v : Byte) : isFmWord (fmWord v) = true := by
  simp [isFmWord, fmWord, clockByte_interleave]

@[simp] theorem isMfmWord_mfmWord (p : Bool) (v : Byte) : isMfmWord p (mfmWord p v) = true := by simp [isMfmWord]

/-- A word whose clock cells are all 1 is the FM word of its byte (30_encoding R114). -/
theorem isFmWord_iff (w : Word) : isFmWord w = true ↔ fmWord (dataByte w) = w := by
  constructor
  · intro h
    have hclock : clockByte w = 0xFF := by simpa [isFmWord] using h
    rw [fmWord, ← hclock, interleave_split]
  · intro h
    rw [← h, isFmWord_fmWord]

theorem isMfmWord_iff (p : Bool) (w : Word) : isMfmWord p w = true ↔ mfmWord p (dataByte w) = w := beq_iff_eq

/-- The one word that is both an MFM and an FM byte is that of byte 0 after a 0: all clock cells are 1 exactly when all data
bits are 0. -/
theorem isFmWord_mfmWord (p : Bool) (v : Byte) : isFmWord (mfmWord p v) = (!p && v == 0) := by
  have hclock : isFmWord (mfmWord p v) = true ↔ mfmClocks p v = 0xFF := by
    simp [isFmWord, mfmWord, clockByte_interleave]
  rw [Bool.eq_iff_iff, hclock, Bool.and_eq_true, Bool.not_eq_true', beq_iff_eq]
  constructor
  · intro h
    have hbit : ∀ k < 8, v.getLsbD k = false ∧ (if k = 7 then p else v.getLsbD (k + 1)) = false := by
      intro k hk
      have hone : (mfmClocks p v).getLsbD k = true := by
        rw [h]
        interval_cases k <;> rfl
      rw [getLsbD_mfmClocks p v hk] at hone
      simpa using hone
    refine ⟨(hbit 7 (by decide)).2, BitVec.eq_of_getLsbD_eq fun k hk => ?_⟩
    exact (hbit k hk).1.trans BitVec.getLsbD_zero.symm
  · rintro ⟨rfl, rfl⟩
    decide

/-- The bit before a byte shows in its MFM word only as the clock cell before a `d7` of 0 (30_encoding R113). -/
theorem isMfmWord_false_mfmWord_true (v : Byte) : isMfmWord false (mfmWord true v) = v.getLsbD 7 := by
  rw [Bool.eq_iff_iff, isMfmWord_iff, dataByte_mfmWord]
  constructor
  · intro h
    have hclock : (mfmClocks false v).getLsbD 7 = (mfmClocks true v).getLsbD 7 := by
      rw [← clockByte_interleave (mfmClocks false v) v, ← clockByte_interleave (mfmClocks true v) v]
      exact congrArg (fun w => (clockByte w).getLsbD 7) h
    rw [getLsbD_mfmClocks false v (by decide), getLsbD_mfmClocks true v (by decide)] at hclock
    simpa using hclock
  · intro h7
    refine congrArg (interleave · v) (BitVec.eq_of_getLsbD_eq fun k hk => ?_)
    rw [getLsbD_mfmClocks false v hk, getLsbD_mfmClocks true v hk]
    by_cases hk7 : k = 7
    · subst hk7
      simp [h7]
    · simp [hk7]

/-- An FM word is read as its byte (30_encoding R114). -/
theorem decodeRaw_fmWord (v : Byte) : decodeRaw (fmWord v) = .fmByte v := by
  simp [decodeRaw]

/-- An MFM word is read as its byte and the bit before it, when that is the way to write it (30_encoding R113). -/
theorem decodeRaw_mfmWord {p : Bool} {v : Byte} (h : (Instr.mfmByte p v).wf = true) :
    decodeRaw (mfmWord p v) = .mfmByte p v := by
  obtain ⟨hseven, hzero⟩ : (p && v.getLsbD 7) = false ∧ (!p && v == 0) = false := by
    simpa only [Instr.wf, Bool.and_eq_true, Bool.not_eq_true'] using h
  have hfm : isFmWord (mfmWord p v) = false := (isFmWord_mfmWord p v).trans hzero
  cases p with
  | false => simp [decodeRaw, hfm]
  | true =>
    have hmfm : isMfmWord false (mfmWord true v) = false := (isMfmWord_false_mfmWord_true v).trans (by simpa using hseven)
    simp [decodeRaw, hfm, hmfm]

/-- A word of no byte is read as itself. -/
theorem decodeRaw_rawWord {w : Word} (h : isByteWord w = false) : decodeRaw w = .rawWord w := by
  have hnone : (isFmWord w = false ∧ isMfmWord false w = false) ∧ isMfmWord true w = false := by
    simpa [isByteWord] using h
  simp [decodeRaw, hnone]

/-- A word of format RAW16 is read low byte first. -/
theorem decode_encodeWord_raw (w : Word) : decode (encodeWord .raw16 w) = .ok (decodeRaw w) :=
  congrArg (Except.ok ∘ decodeRaw) (word_of_bytes w)

/-- What a raw word is read as is the way to write it (30_encoding R111). -/
theorem encode_decodeRaw (w : Word) : (decodeRaw w).wf = true ∧ encode (decodeRaw w) = encodeWord .raw16 w := by
  unfold decodeRaw
  split
  · next hfm => exact ⟨rfl, congrArg (encodeWord .raw16) ((isFmWord_iff w).1 hfm)⟩
  next hfm =>
  split
  · next hmfm =>
    have hw : mfmWord false (dataByte w) = w := (isMfmWord_iff false w).1 hmfm
    rw [← hw, isFmWord_mfmWord] at hfm
    refine ⟨?_, congrArg (encodeWord .raw16) hw⟩
    simpa [Instr.wf] using hfm
  next hmfm =>
  split
  · next hmfm' =>
    have hw : mfmWord true (dataByte w) = w := (isMfmWord_iff true w).1 hmfm'
    rw [← hw, isMfmWord_false_mfmWord_true] at hmfm
    refine ⟨?_, congrArg (encodeWord .raw16) hw⟩
    simpa [Instr.wf] using hmfm
  · next hmfm' =>
    refine ⟨?_, rfl⟩
    simp [Instr.wf, isByteWord, hfm, hmfm, hmfm']

/-- Settles O4: the cells of interleaved bytes bit by bit, and `encode_decodeRaw`. -/
theorem rawWordsHaveOneReading : Obligations.RawWordsHaveOneReading := by
  unfold Obligations.RawWordsHaveOneReading
  refine ⟨fun p v k hk => ⟨getLsbD_interleave_data _ v hk, ?_, getLsbD_interleave_data _ v hk, ?_,
    dataByte_mfmWord p v, dataByte_fmWord v⟩, encode_decodeRaw⟩
  · rw [mfmWord, getLsbD_interleave_clock _ _ hk, getLsbD_mfmClocks p v hk]
  · rw [fmWord, getLsbD_interleave_clock _ _ hk]
    interval_cases k <;> rfl

/-! Rows. -/

/-- A host command is read back from its bytes: the five command bits choose the row, the three above them are its flags
(46_command_engine R291). -/
theorem decode_encode_host {i : Instr} (h : isHostCommand i = true) : decode (encode i) = .ok i := by
  cases i
  any_goals cases h
  all_goals
    simp only [encode, encodeData, encodeHost, decode, decodeHost, command_bits, flag_bits]
    rfl

/-- Settles O3: the operands are read back by `bitsArg_toNat`, `bitArg_bitOperand` and `stateArg_stateCode`, the raw words by
`decodeRaw`'s lemmas, the reserved codes as themselves, the host commands by their fields; every other row has its code alone
and operands that are read as they stand. -/
theorem decodeInvertsEncode : Obligations.DecodeInvertsEncode := by
  unfold Obligations.DecodeInvertsEncode
  intro i hwf
  by_cases hhost : isHostCommand i = true
  · exact decode_encode_host hhost
  cases i
  case encodeMfm v => exact congrArg (Except.map Instr.encodeMfm) (bitsArg_toNat rfl)
  case encodeFm v => exact congrArg (Except.map Instr.encodeFm) (bitsArg_toNat rfl)
  case crcByte v => exact congrArg (Except.map Instr.crcByte) (bitsArg_toNat rfl)
  case loadRaw w => exact congrArg (Except.map Instr.loadRaw) (bitsArg_toNat rfl)
  case crcBit b => exact congrArg (Except.map Instr.crcBit) (bitArg_bitOperand rfl)
  case writeNextBit b limit => exact congrArg (Except.map (Instr.writeNextBit · limit)) (bitArg_bitOperand rfl)
  case liveStart d st => exact congrArg (Except.map (Instr.liveStart d)) (stateArg_stateCode rfl)
  case liveDelay st => exact congrArg (Except.map Instr.liveDelay) (stateArg_stateCode rfl)
  case reservedOp code => exact decodeOp_reserved code _ hwf
  case reservedState code =>
    have hcode : 17 ≤ code.toNat := of_decide_eq_true hwf
    simp only [encode, decode, decodeState, stateOfCode_reserved hcode]
  case rawWord w =>
    have hbyte : isByteWord w = false := by simpa [Instr.wf] using hwf
    exact (decode_encodeWord_raw w).trans (congrArg Except.ok (decodeRaw_rawWord hbyte))
  case mfmByte p v => exact (decode_encodeWord_raw _).trans (congrArg Except.ok (decodeRaw_mfmWord hwf))
  case fmByte v => exact (decode_encodeWord_raw _).trans (congrArg Except.ok (decodeRaw_fmWord v))
  any_goals exact absurd rfl hhost
  all_goals rfl

/-- Settles O1: the fetch of a request that decodes. -/
theorem stepRunsDecodedInstruction : Obligations.StepRunsDecodedInstruction := by
  unfold Obligations.StepRunsDecodedInstruction
  intro s r rest i hin hdecode
  simp only [step, advanceOne, hin, runRequest, hdecode]

/-- Settles O2: the decoder evaluated on each of the codes. -/
theorem writtenCodesDecode : Obligations.WrittenCodesDecode := by
  unfold Obligations.WrittenCodesDecode
  refine ⟨rfl, rfl, rfl, rfl, rfl, rfl, rfl, ?_, rfl, rfl, rfl⟩
  exact (decode_encodeWord_raw (mfmWord true 0x4E)).trans (congrArg Except.ok (decodeRaw_mfmWord (by decide)))

/-- Settles O34: `decodeOp_reserved` and `stateOfCode_reserved`; RESERVED_OP and RESERVED_STATE refuse. -/
theorem reservedCodesRefused : Obligations.ReservedCodesRefused := by
  unfold Obligations.ReservedCodesRefused
  intro s code args
  refine ⟨fun h => decodeOp_reserved code _ ?_, fun h => ?_, rfl, rfl⟩
  · simpa [reservedOpCode] using h
  · simp only [decode, decodeState, stateOfCode_reserved h]

/-- Settles O35: a flag row raises its flag exactly in a running engine (60_exceptions R352, R364). -/
theorem flagsAreRaised : Obligations.FlagsAreRaised := by
  unfold Obligations.FlagsAreRaised
  intro s i f hif
  have hrow : exec i s = .next (raiseRow f s) := by
    rcases hif with ⟨rfl, rfl⟩ | ⟨rfl, rfl⟩ | ⟨rfl, rfl⟩ <;> rfl
  rw [hrow]
  refine ⟨fun hrun hnext => ?_, fun hidle => ?_⟩
  · rw [raiseRow, if_pos ⟨hrun, hnext⟩]
    rfl
  · rw [raiseRow, if_neg (by tauto)]

end Sys2Proof.Proofs
end

section
/-! Cells that pass under the head (log 2): what sixteen given cells leave of the live context and the PLL, and when a state's
rule lets a cell by. -/

namespace Sys2Proof.Proofs

open Sys2Proof.Machine Sys2Proof.Safety Sys2Proof.Laws

/-! Shift registers (43_read_states R200). -/

/-- The register with one bit shifted in. -/
def shiftBit {n : Nat} (r : BitVec n) (b : Bool) : BitVec n := r <<< 1 ||| (BitVec.ofBool b).zeroExtend n

/-- The register with bits shifted in one after the other. -/
def shiftBits {n : Nat} (bs : List Bool) (r : BitVec n) : BitVec n := bs.foldl shiftBit r

@[simp] theorem shiftBits_nil {n : Nat} (r : BitVec n) : shiftBits [] r = r := rfl

@[simp] theorem shiftBits_cons {n : Nat} (b : Bool) (bs : List Bool) (r : BitVec n) :
    shiftBits (b :: bs) r = shiftBits bs (shiftBit r b) := rfl

theorem getLsbD_shiftBit {n : Nat} (r : BitVec n) (b : Bool) {i : Nat} (hi : i < n) :
    (shiftBit r b).getLsbD i = if i = 0 then b else r.getLsbD (i - 1) := by
  cases i with
  | zero => simp [shiftBit, hi]
  | succ i =>
    have hlt : i < n := by omega
    simp [shiftBit, hi, hlt]

/-- The last bit shifted in stands at the right, the earlier ones to its left. -/
theorem getLsbD_shiftBits {n : Nat} (bs : List Bool) (r : BitVec n) {i : Nat} (hi : i < n) :
    (shiftBits bs r).getLsbD i =
      if i < bs.length then bs.getD (bs.length - 1 - i) false else r.getLsbD (i - bs.length) := by
  induction bs generalizing r with
  | nil => simp
  | cons b bs ih =>
    rw [shiftBits_cons, ih, List.length_cons]
    by_cases hlt : i < bs.length
    · have hpos : bs.length + 1 - 1 - i = bs.length - 1 - i + 1 := by omega
      rw [if_pos hlt, if_pos (by omega), hpos, List.getD_cons_succ]
    · rw [if_neg hlt, getLsbD_shiftBit r b (by omega)]
      by_cases heq : i = bs.length
      · subst heq
        simp
      · rw [if_neg (by omega), if_neg (by omega), Nat.sub_sub]

/-- A register as wide as the list holds the list. -/
theorem shiftBits_full {n : Nat} (w r : BitVec n) :
    shiftBits ((List.range n).map fun i => w.getLsbD (n - 1 - i)) r = w := by
  refine BitVec.eq_of_getLsbD_eq fun i hi => ?_
  have hpos : n - 1 - (n - 1 - i) = i := by omega
  have hlt : n - 1 - i < n := by omega
  rw [getLsbD_shiftBits _ _ hi]
  simp only [List.length_map, List.length_range, if_pos hi]
  simp [List.getD_eq_getElem?_getD, hlt, hpos]

/-- The sixteen cells of a word fill the shift register (30_encoding R111). -/
theorem shiftBits_cellsOf (w r : Word) : shiftBits (cellsOf w) r = w := shiftBits_full w r

/-- The eight bits of a byte fill the data register (20_memory R85). -/
theorem shiftBits_bitsOf (v r : Byte) : shiftBits (bitsOf v) r = v := shiftBits_full v r

/-! The PLL. -/

/-- A given cell is read as the bit it is, whatever the PLL (log 2). -/
theorem getNextBit_given (par : Params) (b : Bool) (p : Pll) :
    ∃ q : Pll, p.getNextBit par (if b then .ticks p.nextCenter else .never) .never = some (b, q) := by
  have hlimit : Time.lt .never p.cellEnd = false := rfl
  cases b with
  | false => exact ⟨_, by simp [Pll.getNextBit, hlimit]; rfl⟩
  | true =>
    cases hend : p.cellEnd with
    | never => exact ⟨_, by simp [Pll.getNextBit, hend, Time.lt]; rfl⟩
    | ticks n =>
      have hcenter : ¬ n < p.nextCenter := by
        simp only [Pll.nextCenter, hend, Pll.center]
        omega
      exact ⟨_, by simp [Pll.getNextBit, hend, Time.lt, hcenter]; rfl⟩

/-- The PLL after one given cell. -/
theorem getNextBit_passPll (par : Params) (b : Bool) (p : Pll) :
    p.getNextBit par (if b then .ticks p.nextCenter else .never) .never = some (b, passPll par [b] p) := by
  obtain ⟨q, hq⟩ := getNextBit_given par b p
  rw [hq, passPll, hq]
  rfl

theorem passPll_cons (par : Params) (b : Bool) (bs : List Bool) (p : Pll) :
    passPll par (b :: bs) p = passPll par bs (passPll par [b] p) := by
  rw [passPll, getNextBit_passPll]

/-- Cells of positive length move a sound cursor forward (40_pll R158). -/
theorem passPll_advances {par : Params} {bs : List Bool} {p : Pll} {c : Nat} (hp : PllSound p) (hc : p.ctime = .ticks c) :
    PllSound (passPll par bs p) ∧ ∃ e : Nat, (passPll par bs p).ctime = .ticks e ∧ c ≤ e ∧ (bs ≠ [] → c < e) := by
  induction bs generalizing p c with
  | nil => exact ⟨hp, c, hc, Nat.le_refl c, by simp⟩
  | cons b bs ih =>
    have hend : p.cellEnd = .ticks (c + (p.period + p.phaseAdjust)).toNat := by rw [Pll.cellEnd, hc]; rfl
    have hread := getNextBit_at_end (getNextBit_passPll par b p)
    rw [hend] at hread
    obtain ⟨hp', e, he, hce, -⟩ := getNextBit_advances hp hc hread
    obtain ⟨hlast, f, hf, hef, -⟩ := ih hp' he
    rw [passPll_cons]
    exact ⟨hlast, f, hf, by omega, fun _ => by omega⟩

/-! The state after given cells that no rule looks at. -/

/-- The state after one given cell: the PLL has timed it and the live context has shifted it in. -/
def afterCell (b : Bool) (s : State) : State :=
  { s with
    pll := passPll s.par [b] s.pll
    live := s.live.shiftIn s.par b (passPll s.par [b] s.pll).ctime }

/-- The state after given cells. -/
def afterCells (bs : List Bool) (s : State) : State := bs.foldl (fun s b => afterCell b s) s

@[simp] theorem afterCells_nil (s : State) : afterCells [] s = s := rfl

@[simp] theorem afterCells_cons (b : Bool) (bs : List Bool) (s : State) :
    afterCells (b :: bs) s = afterCells bs (afterCell b s) := rfl

theorem afterCells_append (as bs : List Bool) (s : State) :
    afterCells (as ++ bs) s = afterCells bs (afterCells as s) := List.foldl_append

/-- READ_ONE_BIT of a given cell (43_read_states R200, log 2). -/
theorem readCell_given (b : Bool) (s : State) : readCell (some b) .never s = some (afterCell b s) := by
  have hedge : edgeOf (some b) s = if b then .ticks s.pll.nextCenter else .never := by cases b <;> rfl
  rw [readCell, hedge, getNextBit_passPll]
  rfl

/-- What given cells change: the PLL, and of the live context the time, the counter of cells and what the cells are shifted
into. -/
theorem afterCells_frame (bs : List Bool) (s : State) :
    afterCells bs s = { s with
      pll := passPll s.par bs s.pll
      live := { s.live with
        shiftReg := shiftBits bs s.live.shiftReg
        dataReg := (afterCells bs s).live.dataReg
        crc := (afterCells bs s).live.crc
        bitCounter := (afterCells bs s).live.bitCounter
        tm := (afterCells bs s).live.tm } } := by
  induction bs generalizing s with
  | nil => rfl
  | cons b bs ih =>
    rw [afterCells_cons, ih, passPll_cons]
    rfl

section Fields

variable (bs : List Bool) (s : State)

@[simp] theorem afterCells_par : (afterCells bs s).par = s.par := by rw [afterCells_frame]
@[simp] theorem afterCells_cfg : (afterCells bs s).cfg = s.cfg := by rw [afterCells_frame]
@[simp] theorem afterCells_now : (afterCells bs s).now = s.now := by rw [afterCells_frame]
@[simp] theorem afterCells_fifo : (afterCells bs s).fifo = s.fifo := by rw [afterCells_frame]
@[simp] theorem afterCells_drives : (afterCells bs s).drives = s.drives := by rw [afterCells_frame]
@[simp] theorem afterCells_pll : (afterCells bs s).pll = passPll s.par bs s.pll := by rw [afterCells_frame]
@[simp] theorem afterCells_state : (afterCells bs s).live.state = s.live.state := by rw [afterCells_frame]
@[simp] theorem afterCells_nextState : (afterCells bs s).live.nextState = s.live.nextState := by rw [afterCells_frame]
@[simp] theorem afterCells_flags : (afterCells bs s).live.flags = s.live.flags := by rw [afterCells_frame]
@[simp] theorem afterCells_shiftReg : (afterCells bs s).live.shiftReg = shiftBits bs s.live.shiftReg := by
  rw [afterCells_frame]

end Fields

/-- `live.tm` is the cursor. -/
theorem afterCells_tm {bs : List Bool} {s : State} (h : bs ≠ []) : (afterCells bs s).live.tm = (passPll s.par bs s.pll).ctime := by
  obtain ⟨cs, b, rfl⟩ := (List.eq_nil_or_concat bs).resolve_left h
  rw [← afterCells_pll, List.concat_eq_append, afterCells_append]
  rfl

/-- The cells are counted, when the counter does not wrap (10_state R22). -/
theorem afterCells_bitCounter {bs : List Bool} {s : State}
    (h : s.live.bitCounter + bs.length < 2 ^ s.par.counterBits) :
    (afterCells bs s).live.bitCounter = s.live.bitCounter + bs.length := by
  induction bs generalizing s with
  | nil => rfl
  | cons b bs ih =>
    rw [List.length_cons] at h ⊢
    have hcount : (afterCell b s).live.bitCounter = s.live.bitCounter + 1 := Nat.mod_eq_of_lt (by omega)
    rw [afterCells_cons, ih (by rw [hcount]; show _ < 2 ^ s.par.counterBits; omega), hcount]
    omega

/-- The cells of a list of clock and data bits, first in time first. -/
def cellsOfPairs (ps : List (Bool × Bool)) : List Bool := ps.flatMap fun p => [p.1, p.2]

/-- From an even counter on every second cell is a data cell: it goes through the data register and the CRC (30_encoding R111,
43_read_states R200). -/
theorem afterCells_pairs {ps : List (Bool × Bool)} {s : State} (heven : s.live.bitCounter % 2 = 0)
    (hfit : s.live.bitCounter + 2 * ps.length < 2 ^ s.par.counterBits) :
    (afterCells (cellsOfPairs ps) s).live.dataReg = shiftBits (ps.map Prod.snd) s.live.dataReg ∧
    (afterCells (cellsOfPairs ps) s).live.crc = crcBits s.par.crcPoly s.live.crc (ps.map Prod.snd) := by
  induction ps generalizing s with
  | nil => exact ⟨rfl, rfl⟩
  | cons p ps ih =>
    obtain ⟨c, d⟩ := p
    rw [List.length_cons] at hfit
    have hone : (s.live.bitCounter + 1) % 2 ^ s.par.counterBits = s.live.bitCounter + 1 := Nat.mod_eq_of_lt (by omega)
    have hodd : (s.live.bitCounter + 1) % 2 = 1 := by omega
    have hcount : (afterCells [c, d] s).live.bitCounter = s.live.bitCounter + 2 :=
      afterCells_bitCounter (bs := [c, d]) (show s.live.bitCounter + 2 < _ by omega)
    have hdata : (afterCells [c, d] s).live.dataReg = shiftBit s.live.dataReg d := by
      simp [afterCell, Live.shiftIn, countUp, heven, hone, hodd, shiftBit]
    have hcrc : (afterCells [c, d] s).live.crc = crcStep s.par.crcPoly s.live.crc d := by
      simp [afterCell, Live.shiftIn, countUp, heven, hone, hodd]
    have hrest := ih (s := afterCells [c, d] s) (by omega) (by rw [hcount, afterCells_par]; omega)
    rw [hdata, hcrc, afterCells_par] at hrest
    exact hrest

/-- The state after a word that no rule looks at: its cells in the shift register, its byte through the data register and the
CRC, sixteen cells counted and timed (30_encoding R112). -/
def afterWord (w : Word) (s : State) : State :=
  { s with
    pll := passPll s.par (cellsOf w) s.pll
    live := { s.live with
      shiftReg := w
      dataReg := dataByte w
      crc := crcOfByte s.par.crcPoly s.live.crc (dataByte w)
      bitCounter := s.live.bitCounter + 16
      tm := (passPll s.par (cellsOf w) s.pll).ctime } }

/-- The clock and data bits of a word. -/
def pairsOf (w : Word) : List (Bool × Bool) :=
  [7, 6, 5, 4, 3, 2, 1, 0].map fun k => (w.getLsbD (2 * k + 1), w.getLsbD (2 * k))

/-- The data bits of a word are those of its byte (30_encoding R112). -/
theorem pairsOf_snd (w : Word) : (pairsOf w).map Prod.snd = bitsOf (dataByte w) := by
  simp only [pairsOf, bitsOf, dataByte, getLsbD_fromBits]
  rfl

theorem afterCells_cellsOf {w : Word} {s : State} (heven : s.live.bitCounter % 2 = 0)
    (hfit : s.live.bitCounter + 16 < 2 ^ s.par.counterBits) : afterCells (cellsOf w) s = afterWord w s := by
  have hcells : cellsOfPairs (pairsOf w) = cellsOf w := rfl
  obtain ⟨hdata, hcrc⟩ := afterCells_pairs (ps := pairsOf w) heven hfit
  rw [hcells, pairsOf_snd] at hdata hcrc
  rw [shiftBits_bitsOf] at hdata
  have hcount : (afterCells (cellsOf w) s).live.bitCounter = s.live.bitCounter + 16 := afterCells_bitCounter hfit
  rw [afterCells_frame, afterCells_tm (bs := cellsOf w) (by simp [cellsOf]), shiftBits_cellsOf, hcount, hdata, hcrc]
  rfl

/-- At a byte boundary the counter stands at the next one after a word. -/
theorem afterWord_boundary {w : Word} {k : Nat} {s : State} (hcount : s.live.bitCounter = 16 * k) :
    (afterWord w s).live.bitCounter % 16 = 0 ∧ (afterWord w s).live.bitCounter / 16 = k + 1 := by
  show (s.live.bitCounter + 16) % 16 = 0 ∧ (s.live.bitCounter + 16) / 16 = k + 1
  omega

theorem length_take_cellsOf {w : Word} {j : Nat} (hj : j < 15) : ((cellsOf w).take (j + 1)).length = j + 1 := by
  rw [List.length_take]
  exact Nat.min_eq_left (show j + 1 ≤ 16 by omega)

/-! Cells that a state's rule lets by. -/

/-- The rule of the present state, having read the cell that led to `t`, does nothing more. -/
def Unmoved (t : State) : Prop :=
  match t.live.state with
  | .searchAddressMarkHeader =>
    ¬(t.cfg.mode = .mfm ∧ t.live.shiftReg = t.par.syncMfm) ∧ ¬(t.cfg.mode = .fm ∧ t.live.shiftReg = t.par.syncFmId)
  | .readHeaderBlockHeader => t.cfg.mode = .mfm ∧ t.live.bitCounter % 16 ≠ 0
  | .readDataBlockHeader => t.cfg.mode = .mfm ∧ t.live.bitCounter % 16 ≠ 0
  | .readIdBlock => t.live.bitCounter % 16 ≠ 0
  | .searchAddressMarkData =>
    t.live.bitCounter ≤ t.par.damWindowOpen.get t.cfg.mode + t.par.damWindowLen.get t.cfg.mode ∧
    ¬(t.cfg.mode = .mfm ∧ t.live.shiftReg = t.par.syncMfm) ∧
    ¬(t.cfg.mode = .fm ∧ (t.live.shiftReg = t.par.fmDam ∨ t.live.shiftReg = t.par.fmDdam))
  | _ => False

/-- An engine that reads cells takes a given cell by the rule of its state. -/
theorem passCell_reads {b : Bool} {s : State} (hreads : readsCells s.live.state = true) (hn : s.live.nextState = none) :
    passCell b s = (stateRule s.live.state (some b) .never s).map Prod.fst := by
  simp [passCell, takesCell, hreads, hn]

/-- An engine that reads no cells does not see one. -/
theorem passCell_unseen {b : Bool} {s : State} (h : takesCell s = false) : passCell b s = .ok s := by
  simp [passCell, h]

/-- A cell that the rule lets by. -/
theorem passCell_unmoved {b : Bool} {s : State} (hn : s.live.nextState = none) (h : Unmoved (afterCell b s)) :
    passCell b s = .ok (afterCell b s) := by
  have hstate : (afterCell b s).live.state = s.live.state := rfl
  have hcfg : (afterCell b s).cfg = s.cfg := rfl
  unfold Unmoved at h
  rw [hstate] at h
  have hread := readCell_given b s
  generalize afterCell b s = t at h hread hcfg ⊢
  cases hst : s.live.state
  all_goals
    rw [hst] at h
    try exact h.elim
  all_goals rw [passCell_reads (by rw [hst]; rfl) hn, hst]
  case searchAddressMarkHeader => simp [stateRule, ruleSearchHeader, hread, if_neg h.1, if_neg h.2, Except.map]
  case readHeaderBlockHeader =>
    obtain ⟨hmode, hcount⟩ := h
    simp [stateRule, ruleHeaderHeader, hread, ← hcfg, hmode, hcount, Except.map]
  case readDataBlockHeader =>
    obtain ⟨hmode, hcount⟩ := h
    simp [stateRule, ruleDataHeader, hread, ← hcfg, hmode, hcount, Except.map]
  case readIdBlock => simp [stateRule, ruleReadId, hread, if_pos h, Except.map]
  case searchAddressMarkData =>
    obtain ⟨hwindow, hmfm, hfm⟩ := h
    have hdam : ¬(t.cfg.mode = .fm ∧ t.live.shiftReg = t.par.fmDam) := fun hm => hfm ⟨hm.1, .inl hm.2⟩
    have hddam : ¬(t.cfg.mode = .fm ∧ t.live.shiftReg = t.par.fmDdam) := fun hm => hfm ⟨hm.1, .inr hm.2⟩
    simp [stateRule, ruleSearchData, hread, Nat.not_lt.2 hwindow, if_neg hmfm, if_neg hdam, if_neg hddam, Except.map]

theorem passCells_append (as bs : List Bool) (s : State) :
    passCells (as ++ bs) s = (passCells as s).bind (passCells bs) := by
  induction as generalizing s with
  | nil => rfl
  | cons a as ih =>
    rw [List.cons_append, passCells, passCells]
    cases passCell a s with
    | error e => rfl
    | ok t => exact ih t

theorem passCells_concat (bs : List Bool) (b : Bool) (s : State) :
    passCells (bs ++ [b]) s = (passCells bs s).bind (passCell b) := by
  have hone : passCells [b] = passCell b := by
    funext t
    rw [passCells]
    cases passCell b t <;> rfl
  rw [passCells_append, hone]

/-- Cells that an engine does not see. -/
theorem passCells_unseen {bs : List Bool} {s : State} (h : takesCell s = false) : passCells bs s = .ok s := by
  induction bs with
  | nil => rfl
  | cons b bs ih =>
    rw [passCells, passCell_unseen h]
    exact ih

/-- Cells that the rule of the state lets by, one after the other. -/
theorem passCells_unmoved {bs : List Bool} {s : State} (hn : s.live.nextState = none)
    (h : ∀ j < bs.length, Unmoved (afterCells (bs.take (j + 1)) s)) : passCells bs s = .ok (afterCells bs s) := by
  induction bs generalizing s with
  | nil => rfl
  | cons b bs ih =>
    have hcell : passCell b s = .ok (afterCell b s) := passCell_unmoved hn (h 0 (by simp))
    rw [passCells, hcell]
    exact ih hn fun j hj => h (j + 1) (by simpa using hj)

/-- A word whose first fifteen cells the rule of the state lets by comes down to the rule at its last cell. -/
theorem passWord_last {w : Word} {s : State} (hreads : readsCells s.live.state = true) (hn : s.live.nextState = none)
    (h : ∀ j < 15, Unmoved (afterCells ((cellsOf w).take (j + 1)) s)) :
    ∃ (b : Bool) (x : State), x.cfg = s.cfg ∧ readCell (some b) .never x = some (afterCells (cellsOf w) s) ∧
      passWord w s = (stateRule s.live.state (some b) .never x).map Prod.fst := by
  have hcells : cellsOf w = (cellsOf w).take 15 ++ [w.getLsbD 0] := rfl
  generalize (cellsOf w).take 15 = first at hcells
  have hlen : first.length = 15 := by simpa [cellsOf] using (congrArg List.length hcells).symm
  have hfirst : passCells first s = .ok (afterCells first s) := by
    refine passCells_unmoved hn fun j hj => ?_
    have hpart := h j (by omega)
    rwa [hcells, List.take_append_of_le_length (by omega)] at hpart
  have hlast : passWord w s = passCell (w.getLsbD 0) (afterCells first s) := by
    rw [passWord, hcells, passCells_concat, hfirst]
    rfl
  refine ⟨w.getLsbD 0, afterCells first s, afterCells_cfg first s, ?_, ?_⟩
  · rw [readCell_given, hcells, afterCells_append]
    rfl
  · rw [hlast, passCell_reads (by rwa [afterCells_state]) (by rwa [afterCells_nextState]), afterCells_state]

end Sys2Proof.Proofs
end

section
/-! LIVE_DELAY as the last step of a rule (45_live_control R266, R267): what it leaves in each of the four relations of `live.tm`
to real time. -/

namespace Sys2Proof.Proofs

open Sys2Proof.Machine Sys2Proof.Safety Sys2Proof.Laws

/-- COMMIT does not look at a pending transition. -/
theorem commitTo_setNextState (tm : Time) (n : Option LiveState) (s : State) :
    commitTo tm { s with live := { s.live with nextState := n } } =
      (commitTo tm s).map fun t => { t with live := { t.live with nextState := n } } := by
  unfold commitTo
  dsimp only
  split
  · rfl
  split
  · rfl
  split <;> rfl

/-- A second COMMIT at the same time does nothing (41_write_encoder R175). -/
theorem commitTo_again {tm : Time} {s t u : State} (h : commitTo tm s = .ok t) (hu : u.pll = t.pll) :
    commitTo tm u = .ok u := by
  rcases commitTo_cases h with ⟨hstart, rfl⟩ | ⟨b, hstart, rfl, rfl⟩ | ⟨b, -, -, -, -, rfl⟩
  · exact commitTo_never tm (by rw [hu, hstart])
  · exact commitTo_empty (by rw [hu, hstart])
  · exact commitTo_empty (by rw [hu]; rfl)

/-- The PLL after a transition to `st`: one to IDLE leaves write mode (60_exceptions R363). -/
def arrivedPll (st : LiveState) (p : Pll) : Pll := if st = .idle then { p with writeStart := .never } else p

/-- The transition to IDLE with nothing to commit (60_exceptions R363). -/
theorem enterIdle_of_committed {s : State} (h : commitTo s.live.tm s = .ok s) :
    enterIdle s = .ok { s with
      live := { s.live with state := .idle, drive := none, tm := .never }
      pll := { s.pll with writeStart := .never } } := by
  rw [enterIdle, stopWritingAt, h]
  rfl

/-- CHECKPOINT at a confirmed time with nothing to commit (45_live_control R264). -/
theorem takeCheckpoint_of_committed {s : State} (htm : s.live.tm = .ticks s.now) (h : commitTo s.live.tm s = .ok s) :
    takeCheckpoint s = .ok { s with snap := ⟨s.live, s.pll⟩ } := by
  rw [htm] at h
  simp only [takeCheckpoint, htm, Nat.le_refl, if_true, h, ite_self]
  rfl

/-- LIVE_SYNC at a confirmed time whose COMMIT completes makes the pending transition and copies what it led to
(45_live_control R267). -/
theorem syncConfirmed_arrives {st : LiveState} {s t : State} (htm : s.live.tm = .ticks s.now)
    (hnext : s.live.nextState = some st) (hc : commitTo s.live.tm s = .ok t) :
    syncConfirmed s = .ok { t with
      live := arrived st s.live
      pll := arrivedPll st t.pll
      snap := ⟨arrived st s.live, arrivedPll st t.pll⟩ } := by
  obtain ⟨⟨-, -, -, hnow, -⟩, hlive, -⟩ := commitTo_frame hc
  have hagain : ∀ u : State, u.live.tm = s.live.tm → u.pll = t.pll → commitTo u.live.tm u = .ok u :=
    fun u hu hpll => hu ▸ commitTo_again hc hpll
  unfold syncConfirmed
  rw [hc]
  simp only [bind, Except.bind, hlive, hnext, Option.getD_some]
  by_cases hst : st = .idle
  · subst hst
    rw [if_pos rfl, enterIdle_of_committed (hagain _ (by rfl) (by rfl))]
    rfl
  · rw [if_neg hst]
    refine (takeCheckpoint_of_committed ?_ (hagain _ (by rfl) (by rfl))).trans ?_
    · exact htm.trans (congrArg Time.ticks hnow.symm)
    · simp only [arrived, arrivedPll, if_neg hst]

/-- LIVE_DELAY as the last step of a rule that leads to `s`: all four cases (45_live_control R266). -/
theorem defersTo_delayTo (oc : OpOutcome) (st : LiveState) (s : State) :
    DefersTo oc st s.live s (finish ((delayTo st s).map fun t => t.setOutcome oc)) := by
  refine ⟨fun htm => ?_, fun n htm hn => ?_, fun htm => ?_, fun n htm hn => ?_⟩
  · simp only [delayTo, htm]
    rfl
  · rw [delayTo_ahead htm hn]
    rfl
  · have hdelay : delayTo st s = syncConfirmed { s with live := { s.live with nextState := some st } } := by
      simp [delayTo, htm]
    have hcommit : exec (.commit s.live.tm) s = finish ((commitTo s.live.tm s).map fun t => t.setOutcome .none) := rfl
    constructor
    · rintro w p hw rfl
      obtain ⟨t, ht, rfl⟩ := finish_map_next (hcommit.symm.trans hw)
      have hpending : commitTo s.live.tm { s with live := { s.live with nextState := some st } } =
          .ok { t with live := { t.live with nextState := some st } } := by
        rw [commitTo_setNextState, ht]
        rfl
      rw [hdelay, syncConfirmed_arrives (s := { s with live := { s.live with nextState := some st } }) htm rfl hpending]
      unfold arrived arrivedPll
      split <;> rfl
    · intro r hr
      rw [hdelay, syncConfirmed, commitTo_setNextState]
      rw [hcommit] at hr
      cases hc : commitTo s.live.tm s with
      | ok t => rw [hc] at hr; cases hr
      | error e => rw [hc] at hr; exact hr
  · simp only [delayTo, htm, if_pos hn]
    rfl

end Sys2Proof.Proofs
end

section
/-! Words under the head (30_encoding R111 to R116, 43_read_states R202 to R206, log 2): a mark opens a field where a rule compares
against it, and a word inside a field is one byte. -/

namespace Sys2Proof.Proofs

open Sys2Proof.Machine Sys2Proof.Safety Sys2Proof.Laws

/-- A row of format RAW16, MARK16 or AM8 lets its word pass under the head. -/
theorem exec_wordOf {s : State} {i : Instr} {w : Word} (h : wordOf s i = some w) : exec i s = wordStep w s := by
  cases i
  any_goals cases h
  all_goals rfl

/-- The next state of a word row. -/
theorem wordStep_of_passWord {w : Word} {s t : State} (h : passWord w s = .ok t) :
    wordStep w s = .next (t.setOutcome .none) := by
  rw [wordStep, h]
  rfl

/-! Words at a byte boundary. -/

/-- The rule of the state looks at whole bytes, counted from the mark (20_memory R87). -/
def ByteAligned (s : State) : Prop :=
  s.live.state = .readIdBlock ∨
    s.cfg.mode = .mfm ∧ (s.live.state = .readHeaderBlockHeader ∨ s.live.state = .readDataBlockHeader)

/-- At a byte boundary the rule lets the first fifteen cells by and looks at the whole word. -/
theorem passWord_aligned {w : Word} {k : Nat} {s : State} (ha : ByteAligned s) (hn : s.live.nextState = none)
    (hcount : s.live.bitCounter = 16 * k) (hfit : 16 * (k + 1) < 2 ^ s.par.counterBits) :
    ∃ (b : Bool) (x : State), x.cfg = s.cfg ∧ readCell (some b) .never x = some (afterWord w s) ∧
      passWord w s = (stateRule s.live.state (some b) .never x).map Prod.fst := by
  rw [← afterCells_cellsOf (w := w) (s := s) (by omega) (by omega)]
  refine passWord_last ?_ hn fun j hj => ?_
  · rcases ha with hst | ⟨-, hst | hst⟩ <;> rw [hst] <;> rfl
  · have hlen : ((cellsOf w).take (j + 1)).length = j + 1 := length_take_cellsOf hj
    have hbits : (afterCells ((cellsOf w).take (j + 1)) s).live.bitCounter % 16 ≠ 0 := by
      rw [afterCells_bitCounter (by rw [hlen]; omega), hlen]
      omega
    rcases ha with hst | ⟨hmode, hst | hst⟩ <;> simp [Unmoved, hst, hbits]
    all_goals exact hmode

/-- The state after byte `k` of an ID field: the byte is in its place of the ID buffer (43_read_states R204). -/
def idByteStored (k : Nat) (w : Word) (s : State) : State :=
  { afterWord w s with live := { (afterWord w s).live with idbuf := s.live.idbuf.put k (dataByte w) } }

/-- Byte `k` of an ID field is stored; the sixth ends the run (43_read_states R204). -/
theorem passWord_readId {w : Word} {k : Nat} {s : State} (hst : s.live.state = .readIdBlock)
    (hn : s.live.nextState = none) (hcount : s.live.bitCounter = 16 * k)
    (hfit : 16 * (k + 1) < 2 ^ s.par.counterBits) :
    passWord w s = if k = 5 then delayTo .idle (idByteStored k w s) else .ok (idByteStored k w s) := by
  obtain ⟨b, x, -, hread, hpass⟩ := passWord_aligned (w := w) (.inl hst) hn hcount hfit
  obtain ⟨hwhole, hnext⟩ := afterWord_boundary (w := w) hcount
  have hslot : (afterWord w s).live.bitCounter / 16 - 1 = k := by rw [hnext, Nat.add_sub_cancel]
  rw [hpass, hst, stateRule, ruleReadId, hread]
  simp only [hwhole, hslot, ne_eq, not_true_eq_false, if_false]
  split
  · show ((delayTo .idle (idByteStored k w s)).map _).map _ = _
    cases delayTo .idle (idByteStored k w s) <;> rfl
  · rfl

/-- A sync word among the first in a header leaves the header state (43_read_states R203, R206). -/
theorem passWord_sync {w : Word} {k : Nat} {s : State} (hmode : s.cfg.mode = .mfm)
    (hst : s.live.state = .readHeaderBlockHeader ∨ s.live.state = .readDataBlockHeader) (hn : s.live.nextState = none)
    (hcount : s.live.bitCounter = 16 * k) (hfit : 16 * (k + 1) < 2 ^ s.par.counterBits) (hw : w = s.par.syncMfm)
    (hk : k + 1 < s.par.mfmSyncCount) : passWord w s = .ok (afterWord w s) := by
  obtain ⟨b, x, hx, hread, hpass⟩ := passWord_aligned (w := w) (.inr ⟨hmode, hst⟩) hn hcount hfit
  have hfm : x.cfg.mode ≠ .fm := by rw [hx, hmode]; decide
  obtain ⟨hwhole, hslot⟩ := afterWord_boundary (w := w) hcount
  have hpar : (afterWord w s).par = s.par := rfl
  have hshift : (afterWord w s).live.shiftReg = s.par.syncMfm := hw
  rw [hpass]
  rcases hst with hst | hst
  · simp [hst, stateRule, ruleHeaderHeader, hread, hfm, hwhole, hslot, hpar, hk, hshift, Except.map]
  · simp [hst, stateRule, ruleDataHeader, hread, hfm, hwhole, hslot, hpar, hk, hshift, Except.map]

/-- The mark byte after the sync words opens the ID field (43_read_states R203). -/
theorem passWord_idMark {w : Word} {k : Nat} {s : State} (hmode : s.cfg.mode = .mfm)
    (hst : s.live.state = .readHeaderBlockHeader) (hn : s.live.nextState = none) (hcount : s.live.bitCounter = 16 * k)
    (hfit : 16 * (k + 1) < 2 ^ s.par.counterBits) (hw : dataByte w = s.par.amId) (hk : s.par.mfmSyncCount ≤ k + 1) :
    passWord w s = .ok { afterWord w s with
      live := { (afterWord w s).live with bitCounter := 0, state := .readIdBlock } } := by
  obtain ⟨b, x, hx, hread, hpass⟩ := passWord_aligned (w := w) (.inr ⟨hmode, .inl hst⟩) hn hcount hfit
  have hfm : x.cfg.mode ≠ .fm := by rw [hx, hmode]; decide
  obtain ⟨hwhole, hslot⟩ := afterWord_boundary (w := w) hcount
  have hpar : (afterWord w s).par = s.par := rfl
  have hdata : (afterWord w s).live.dataReg = s.par.amId := hw
  rw [hpass]
  simp [hst, stateRule, ruleHeaderHeader, hread, hfm, hwhole, hslot, hpar, Nat.not_lt.2 hk, hdata, Except.map]

/-- Settles O36: `passWord_readId`, and `defersTo_delayTo` for the sixth byte. -/
theorem wordIsOneByte : Obligations.WordIsOneByte := by
  unfold Obligations.WordIsOneByte
  rintro s i w k p l hw hst hn hcount hk hbits rfl rfl
  have hfit : 16 * (k + 1) < 2 ^ s.par.counterBits :=
    calc 16 * (k + 1) < 2 ^ 7 := by omega
      _ ≤ 2 ^ s.par.counterBits := Nat.pow_le_pow_right (by decide) hbits
  have hstored : { s with
      pll := passPll s.par (cellsOf w) s.pll
      live := { s.live with
        shiftReg := w
        dataReg := dataByte w
        crc := crcOfByte s.par.crcPoly s.live.crc (dataByte w)
        bitCounter := 16 * (k + 1)
        idbuf := s.live.idbuf.put k (dataByte w)
        tm := (passPll s.par (cellsOf w) s.pll).ctime } } = idByteStored k w s := by
    rw [Nat.mul_add, ← hcount]
    rfl
  have hpass := passWord_readId (w := w) hst hn hcount hfit
  rw [exec_wordOf hw]
  refine ⟨fun hk5 => ?_, fun hk5 => ?_⟩
  · rw [if_neg (by omega)] at hpass
    rw [wordStep_of_passWord hpass, ← hstored]
    rfl
  · rw [if_pos hk5] at hpass
    rw [hstored, wordStep, hpass]
    have hlive := congrArg State.live hstored
    dsimp only at hlive
    rw [hlive]
    exact defersTo_delayTo .none .idle _

/-! Words in a search. -/

/-- With an empty shift register fewer than sixteen cells are no mark: bit 15 is still 0, and bit 14 is at most the first
cell. -/
theorem shiftBits_take_ne {w m : Word} {j : Nat} (hj : j < 15)
    (hm : m.getLsbD 15 = true ∨ m.getLsbD 14 = true ∧ w.getLsbD 15 = false) :
    shiftBits ((cellsOf w).take (j + 1)) 0 ≠ m := by
  rintro rfl
  have hlen : ((cellsOf w).take (j + 1)).length = j + 1 := length_take_cellsOf hj
  rw [getLsbD_shiftBits _ _ (by decide), getLsbD_shiftBits _ _ (by decide), hlen, if_neg (by omega)] at hm
  rcases hm with hm | ⟨hm, hfirst⟩
  · simp at hm
  · split at hm
    · have hpos : j + 1 - 1 - 14 = 0 := by omega
      rw [hpos] at hm
      have hcell : w.getLsbD 15 = true := hm
      rw [hcell] at hfirst
      cases hfirst
    · simp at hm

/-- A word that is itself the mark is not taken for it before its last cell, when one of its first two cells is 1. -/
theorem shiftBits_take_ne_self {w : Word} {j : Nat} (hj : j < 15) (hw : w.getLsbD 15 = true ∨ w.getLsbD 14 = true) :
    shiftBits ((cellsOf w).take (j + 1)) 0 ≠ w := by
  refine shiftBits_take_ne hj ?_
  cases h : w.getLsbD 15 with
  | true => exact .inl rfl
  | false => exact .inr ⟨hw.resolve_left (by rw [h]; decide), rfl⟩

/-- A sync word in the header search opens what follows it (43_read_states R202). -/
theorem passWord_searchHeader {w : Word} {st : LiveState} {s : State} (hn : s.live.nextState = none)
    (hshift : s.live.shiftReg = 0) (hst : s.live.state = .searchAddressMarkHeader)
    (hw : w.getLsbD 15 = true ∨ w.getLsbD 14 = true)
    (h : s.cfg.mode = .mfm ∧ w = s.par.syncMfm ∧ st = .readHeaderBlockHeader ∨
      s.cfg.mode = .fm ∧ w = s.par.syncFmId ∧ st = .readIdBlock) :
    passWord w s = .ok (alignOn st (afterCells (cellsOf w) s)) := by
  have hpart : ∀ j < 15, Unmoved (afterCells ((cellsOf w).take (j + 1)) s) := by
    intro j hj
    have hne := shiftBits_take_ne_self hj hw
    rcases h with ⟨hmode, hmark, -⟩ | ⟨hmode, hmark, -⟩
    · simpa [Unmoved, hst, hmode, hshift, ← hmark] using hne
    · simpa [Unmoved, hst, hmode, hshift, ← hmark] using hne
  obtain ⟨b, x, -, hread, hpass⟩ := passWord_last (by rw [hst]; rfl) hn hpart
  have hwhole : (afterCells (cellsOf w) s).live.shiftReg = w := by rw [afterCells_shiftReg, shiftBits_cellsOf]
  have hpar : (afterCells (cellsOf w) s).par = s.par := afterCells_par _ s
  have hcfg : (afterCells (cellsOf w) s).cfg = s.cfg := afterCells_cfg _ s
  generalize afterCells (cellsOf w) s = t at hread hwhole hpar hcfg ⊢
  rw [hpass, hst, stateRule, ruleSearchHeader, hread]
  rcases h with ⟨hmode, hmark, rfl⟩ | ⟨hmode, hmark, rfl⟩
  · simp [hcfg, hpar, hmode, hwhole, ← hmark, Except.map]
  · simp [hcfg, hpar, hmode, hwhole, ← hmark, Except.map]

/-- A word in the data search whose last cell lies in the window, no part of it being a mark, is compared against the marks
(43_read_states R205). -/
theorem passWord_searchData {w : Word} {s : State} (hn : s.live.nextState = none)
    (hst : s.live.state = .searchAddressMarkData) (hfit : s.live.bitCounter + 16 < 2 ^ s.par.counterBits)
    (hopen : s.par.damWindowOpen.get s.cfg.mode ≤ s.live.bitCounter + 16)
    (hclose : s.live.bitCounter + 16 ≤ s.par.damWindowOpen.get s.cfg.mode + s.par.damWindowLen.get s.cfg.mode)
    (hpart : ∀ j < 15, ∀ r : Word, r = shiftBits ((cellsOf w).take (j + 1)) s.live.shiftReg →
      ¬(s.cfg.mode = .mfm ∧ r = s.par.syncMfm) ∧ ¬(s.cfg.mode = .fm ∧ (r = s.par.fmDam ∨ r = s.par.fmDdam))) :
    passWord w s = .ok (
      let t := afterCells (cellsOf w) s
      if s.cfg.mode = .mfm ∧ w = s.par.syncMfm then alignOn .readDataBlockHeader t
      else if s.cfg.mode = .fm ∧ w = s.par.fmDam then alignOn .readSectorData t
      else if s.cfg.mode = .fm ∧ w = s.par.fmDdam then alignOn .readSectorData (raise flagDamDeleted t)
      else t) := by
  have hunmoved : ∀ j < 15, Unmoved (afterCells ((cellsOf w).take (j + 1)) s) := by
    intro j hj
    obtain ⟨hmfm, hfm⟩ := hpart j hj _ rfl
    have hlen : ((cellsOf w).take (j + 1)).length = j + 1 := length_take_cellsOf hj
    have hcount := afterCells_bitCounter (bs := (cellsOf w).take (j + 1)) (s := s) (by rw [hlen]; omega)
    simp only [Unmoved, afterCells_state, hst, afterCells_par, afterCells_cfg, afterCells_shiftReg, hcount, hlen]
    exact ⟨by omega, hmfm, hfm⟩
  obtain ⟨b, x, -, hread, hpass⟩ := passWord_last (by rw [hst]; rfl) hn hunmoved
  have hwhole : (afterCells (cellsOf w) s).live.shiftReg = w := by rw [afterCells_shiftReg, shiftBits_cellsOf]
  have hcount : (afterCells (cellsOf w) s).live.bitCounter = s.live.bitCounter + 16 := afterCells_bitCounter hfit
  have hpar : (afterCells (cellsOf w) s).par = s.par := afterCells_par _ s
  have hcfg : (afterCells (cellsOf w) s).cfg = s.cfg := afterCells_cfg _ s
  generalize afterCells (cellsOf w) s = t at hread hwhole hcount hpar hcfg ⊢
  rw [hpass, hst, stateRule, ruleSearchData, hread]
  simp only [hcfg, hpar, hcount, hwhole, if_neg (Nat.not_lt.2 hclose), if_neg (Nat.not_lt.2 hopen)]
  split_ifs <;> rfl

/-- The live context after the cells of a mark (43_read_states R202, R205). -/
theorem alignOn_mark {bs : List Bool} {w : Word} {s : State} (st : LiveState)
    (hw : shiftBits bs s.live.shiftReg = w) :
    (alignOn st (afterCells bs s)).live.state = st ∧ (alignOn st (afterCells bs s)).live.bitCounter = 0 ∧
    (alignOn st (afterCells bs s)).live.crc = crcSeedWord s.par w ∧
    (alignOn st (afterCells bs s)).live.flags = s.live.flags := by
  refine ⟨rfl, rfl, ?_, afterCells_flags bs s⟩
  simp only [alignOn, afterCells_par, afterCells_shiftReg, hw]

/-- The CRC seeds of the marks (42_crc R192). -/
theorem crcSeedWord_reference :
    crcSeedWord Params.reference Params.reference.syncMfm = 0x443B ∧
    crcSeedWord Params.reference Params.reference.syncFmId = 0xEF21 ∧
    crcSeedWord Params.reference Params.reference.fmDam = 0xBF84 ∧
    crcSeedWord Params.reference Params.reference.fmDdam = 0x8FE7 := by decide

/-- A mark row that opens a field: the next state. -/
theorem exec_mark {i : Instr} {w : Word} {st : LiveState} {s x : State} (hw : wordOf s i = some w)
    (hpass : passWord w s = .ok (alignOn st (afterCells (cellsOf w) x))) :
    ∃ t : State, exec i s = .next t ∧ t.live.state = st ∧ t.live.bitCounter = 0 ∧
      t.live.crc = crcSeedWord x.par w ∧ t.live.flags = x.live.flags :=
  ⟨_, (exec_wordOf hw).trans (wordStep_of_passWord hpass), alignOn_mark st (shiftBits_cellsOf w _)⟩

/-- A flag raised before the cells pass or after them is the same. -/
theorem raise_afterCells (f : BitVec 3) (bs : List Bool) (s : State) :
    raise f (afterCells bs s) = afterCells bs (raise f s) := by
  induction bs generalizing s with
  | nil => rfl
  | cons b bs ih => exact ih (afterCell b s)

/-- SYNC_MFM in the data search, its last cell in the window, opens a data header (43_read_states R205). -/
theorem passWord_dataSync {s : State} (hpar : s.par = Params.reference) (hn : s.live.nextState = none)
    (hshift : s.live.shiftReg = 0) (hst : s.live.state = .searchAddressMarkData) (hmode : s.cfg.mode = .mfm)
    (hopen : 336 ≤ s.live.bitCounter) (hclose : s.live.bitCounter ≤ 784) :
    passWord s.par.syncMfm s = .ok (alignOn .readDataBlockHeader (afterCells (cellsOf s.par.syncMfm) s)) := by
  have hpass := passWord_searchData (w := s.par.syncMfm) hn hst
    (by rw [hpar]; show _ < 2 ^ 32; omega) (by rw [hpar, hmode]; show 352 ≤ _; omega)
    (by rw [hpar, hmode]; show _ ≤ 352 + 448; omega) (by
      rintro j hj r rfl
      rw [hmode, hshift]
      exact ⟨fun h => shiftBits_take_ne_self hj (by rw [hpar]; decide) h.2, by simp⟩)
  rw [hpass]
  exact congrArg Except.ok (if_pos ⟨hmode, rfl⟩)

/-- FM_DAM and FM_DDAM in the data search, the last cell in the window, open a data field (43_read_states R205). -/
theorem passWord_fmDataMark {w : Word} {s : State} (hpar : s.par = Params.reference) (hn : s.live.nextState = none)
    (hshift : s.live.shiftReg = 0) (hst : s.live.state = .searchAddressMarkData) (hmode : s.cfg.mode = .fm)
    (hopen : 160 ≤ s.live.bitCounter) (hclose : s.live.bitCounter ≤ 336) :
    (w = s.par.fmDam → passWord w s = .ok (alignOn .readSectorData (afterCells (cellsOf w) s))) ∧
    (w = s.par.fmDdam →
      passWord w s = .ok (alignOn .readSectorData (afterCells (cellsOf w) (raise flagDamDeleted s)))) := by
  have hpass := passWord_searchData (w := w) hn hst
    (by rw [hpar]; show _ < 2 ^ 32; omega) (by rw [hpar, hmode]; show 176 ≤ _; omega)
    (by rw [hpar, hmode]; show _ ≤ 176 + 176; omega) (by
      rintro j hj r rfl
      rw [hmode, hshift]
      refine ⟨by simp, ?_⟩
      rintro ⟨-, h | h⟩
      · exact shiftBits_take_ne hj (.inl (by rw [hpar]; decide)) h
      · exact shiftBits_take_ne hj (.inl (by rw [hpar]; decide)) h)
  have hmfm : ¬(s.cfg.mode = .mfm ∧ w = s.par.syncMfm) := by simp [hmode]
  dsimp only at hpass
  rw [if_neg hmfm] at hpass
  refine ⟨fun hw => ?_, fun hw => ?_⟩
  · rw [hpass, if_pos ⟨hmode, hw⟩]
  · have hdam : ¬(s.cfg.mode = .fm ∧ w = s.par.fmDam) := by
      rw [hw, hpar]
      exact fun h => absurd h.2 (by decide)
    rw [hpass, if_neg hdam, if_pos ⟨hmode, hw⟩, raise_afterCells]

/-- An engine in a state that reads no cells, or with a transition pending, sees none (45_live_control R263). -/
theorem takesCell_false {s : State} (h : s.live.nextState ≠ none ∨ readsCells s.live.state = false) :
    takesCell s = false := by
  rcases h with h | h
  · cases hn : s.live.nextState with
    | none => exact absurd hn h
    | some st => simp [takesCell, hn]
  · simp [takesCell, h]

/-- Settles O37: the marks by `passWord_searchHeader`, `passWord_dataSync` and `passWord_fmDataMark`, the sync words of a header
by `passWord_sync`, and a word that is not seen by `passCells_unseen`. -/
theorem marksAreRecognised : Obligations.MarksAreRecognised := by
  unfold Obligations.MarksAreRecognised
  obtain ⟨hseedMfm, hseedId, hseedDam, hseedDdam⟩ := crcSeedWord_reference
  refine ⟨fun s hpar hn hshift => ⟨fun hst => ⟨fun hmode => ?_, fun hmode => ?_⟩,
    fun hst => ⟨fun hmode hopen hclose => ?_, fun hmode hopen hclose => ⟨?_, ?_⟩⟩⟩, ?_, ?_⟩
  · rw [← hseedMfm, ← hpar]
    have hmark : s.par.syncMfm.getLsbD 15 = true ∨ s.par.syncMfm.getLsbD 14 = true := by rw [hpar]; decide
    exact exec_mark (i := .syncMfm) rfl (passWord_searchHeader hn hshift hst hmark (.inl ⟨hmode, rfl, rfl⟩))
  · rw [← hseedId, ← hpar]
    have hmark : s.par.syncFmId.getLsbD 15 = true ∨ s.par.syncFmId.getLsbD 14 = true := by rw [hpar]; decide
    exact exec_mark (i := .syncFmId) rfl (passWord_searchHeader hn hshift hst hmark (.inr ⟨hmode, rfl, rfl⟩))
  · rw [← hseedMfm, ← hpar]
    exact exec_mark (i := .syncMfm) rfl (passWord_dataSync hpar hn hshift hst hmode hopen hclose)
  · rw [← hseedDam, ← hpar]
    exact exec_mark (i := .fmDam) rfl ((passWord_fmDataMark hpar hn hshift hst hmode hopen hclose).1 rfl)
  · rw [← hseedDdam, ← hpar]
    exact exec_mark (i := .fmDdam) rfl ((passWord_fmDataMark hpar hn hshift hst hmode hopen hclose).2 rfl)
  · intro s k hpar hmode hn hst hcount hk
    have hpass := passWord_sync (w := s.par.syncMfm) (k := k) hmode hst hn hcount
      (by rw [hpar]; show _ < 2 ^ 32; omega) rfl (by rw [hpar]; show _ < 3; omega)
    refine ⟨_, (exec_wordOf (i := .syncMfm) rfl).trans (wordStep_of_passWord hpass), rfl, ?_, hn, rfl⟩
    show s.live.bitCounter + 16 = _
    omega
  · intro s i w hw h
    have hunseen : takesCell s = false := takesCell_false <| h.imp_right <| by
      rintro ⟨h1, h2, h3, h4, h5, h6, h7⟩
      unfold readsCells
      split
      any_goals contradiction
      rfl
    exact (exec_wordOf hw).trans (wordStep_of_passWord (passCells_unseen hunseen))

end Sys2Proof.Proofs
end

section
/-! A whole ID field under the head (43_read_states R202 to R204, 42_crc R193, log 2): the words one after the other, from the
search to the deferred transition to IDLE. -/

namespace Sys2Proof.Proofs

open Sys2Proof.Machine Sys2Proof.Safety Sys2Proof.Laws

/-- The CRC of bytes, bit by bit, is the CRC byte by byte (42_crc R191). -/
theorem crcBits_flatMap (poly c : Word) (vs : List Byte) :
    crcBits poly c (vs.flatMap bitsOf) = vs.foldl (crcOfByte poly) c := by
  induction vs generalizing c with
  | nil => rfl
  | cons v vs ih =>
    rw [List.flatMap_cons, crcBits, List.foldl_append]
    exact ih _

theorem passPll_append (par : Params) (as bs : List Bool) (p : Pll) :
    passPll par (as ++ bs) p = passPll par bs (passPll par as p) := by
  induction as generalizing p with
  | nil => rfl
  | cons a as ih => rw [List.cons_append, passPll_cons, ih, ← passPll_cons]

/-- A word that passes, and then others. -/
theorem passCells_words {w : Word} {ws : List Word} {s t : State} (h : passWord w s = .ok t) :
    passCells ((w :: ws).flatMap cellsOf) s = passCells (ws.flatMap cellsOf) t := by
  rw [List.flatMap_cons, passCells_append]
  exact congrArg (Except.bind · _) h

/-! What passes unchanged under words, and what they move whatever the state they find. -/

/-- From `s`, with CRC `c` before them, the words `ws` have passed and led to `t`: their bytes have gone through the CRC and
their cells through the PLL; no flag has been raised, no transition deferred, and nothing outside is touched. -/
structure WordsRead (ws : List Word) (c : Word) (s t : State) : Prop where
  crc : t.live.crc = (ws.map dataByte).foldl (crcOfByte s.par.crcPoly) c
  pll : t.pll = passPll s.par (ws.flatMap cellsOf) s.pll
  flags : t.live.flags = s.live.flags
  nextState : t.live.nextState = s.live.nextState
  par : t.par = s.par
  cfg : t.cfg = s.cfg
  now : t.now = s.now
  fifo : t.fifo = s.fifo
  drives : t.drives = s.drives

theorem WordsRead.trans {vs ws : List Word} {c : Word} {s t u : State} (h : WordsRead vs c s t)
    (k : WordsRead ws t.live.crc t u) : WordsRead (vs ++ ws) c s u where
  crc := by rw [k.crc, h.crc, h.par, List.map_append, List.foldl_append]
  pll := by rw [k.pll, h.pll, h.par, List.flatMap_append, passPll_append]
  flags := k.flags.trans h.flags
  nextState := k.nextState.trans h.nextState
  par := k.par.trans h.par
  cfg := k.cfg.trans h.cfg
  now := k.now.trans h.now
  fifo := k.fifo.trans h.fifo
  drives := k.drives.trans h.drives

/-- One word that leads to a live context with its byte's CRC. -/
theorem wordsRead_word {w c : Word} {s : State} {l : Live} (hcrc : l.crc = crcOfByte s.par.crcPoly c (dataByte w))
    (hflags : l.flags = s.live.flags) (hn : l.nextState = s.live.nextState) :
    WordsRead [w] c s { s with pll := passPll s.par (cellsOf w) s.pll, live := l } where
  crc := hcrc
  pll := by rw [List.flatMap_singleton]
  flags := hflags
  nextState := hn
  par := rfl
  cfg := rfl
  now := rfl
  fifo := rfl
  drives := rfl

theorem afterWord_read (w : Word) (s : State) : WordsRead [w] s.live.crc s (afterWord w s) := wordsRead_word rfl rfl rfl

theorem idByteStored_read (k : Nat) (w : Word) (s : State) : WordsRead [w] s.live.crc s (idByteStored k w s) :=
  wordsRead_word rfl rfl rfl

/-- What a rule then does to the rest of the live context makes no difference. -/
theorem WordsRead.withLive {ws : List Word} {c : Word} {s t : State} {l : Live} (h : WordsRead ws c s t)
    (hcrc : l.crc = t.live.crc) (hflags : l.flags = t.live.flags) (hn : l.nextState = t.live.nextState) :
    WordsRead ws c s { t with live := l } :=
  ⟨hcrc.trans h.crc, h.pll, hflags.trans h.flags, hn.trans h.nextState, h.par, h.cfg, h.now, h.fifo, h.drives⟩

/-- The live context is all that a mark changes besides the PLL. -/
theorem alignOn_afterCells (st : LiveState) (bs : List Bool) (s : State) :
    (alignOn st (afterCells bs s)).live.nextState = s.live.nextState ∧
    alignOn st (afterCells bs s) =
      { s with pll := passPll s.par bs s.pll, live := (alignOn st (afterCells bs s)).live } := by
  refine ⟨afterCells_nextState bs s, ?_⟩
  rw [alignOn, afterCells_frame]

/-- The first sync word seeds the CRC (42_crc R192). -/
theorem alignOn_read (w : Word) (st : LiveState) (s : State) :
    WordsRead [w] s.par.crcInit s (alignOn st (afterCells (cellsOf w) s)) := by
  obtain ⟨-, -, hcrc, hflags⟩ := alignOn_mark st (shiftBits_cellsOf w s.live.shiftReg)
  obtain ⟨hn, hframe⟩ := alignOn_afterCells st (cellsOf w) s
  rw [hframe]
  exact wordsRead_word hcrc hflags hn

/-- Words take time: a sound cursor has moved on (40_pll R158). -/
theorem WordsRead.later {ws : List Word} {c : Word} {s t : State} {start : Nat} (h : WordsRead ws c s t) (hws : ws ≠ [])
    (hpll : PllSound s.pll) (hstart : s.pll.ctime = .ticks start) : ∃ e : Nat, t.pll.ctime = .ticks e ∧ start < e := by
  obtain ⟨-, e, he, -, hlater⟩ := passPll_advances (par := s.par) (bs := ws.flatMap cellsOf) hpll hstart
  refine ⟨e, by rw [h.pll, he], hlater ?_⟩
  obtain ⟨w, ws, rfl⟩ := List.exists_cons_of_ne_nil hws
  exact List.cons_ne_nil _ _

/-! A header and its ID field. -/

/-- The state after the second and the third sync word and the mark of a header (43_read_states R203). -/
def idFieldOpened (mark : Word) (s : State) : State :=
  let t := afterWord mark (afterWord s.par.syncMfm (afterWord s.par.syncMfm s))
  { t with live := { t.live with bitCounter := 0, state := .readIdBlock } }

theorem idFieldOpened_read (mark : Word) (s : State) :
    WordsRead [s.par.syncMfm, s.par.syncMfm, mark] s.live.crc s (idFieldOpened mark s) :=
  (((afterWord_read s.par.syncMfm s).trans (afterWord_read s.par.syncMfm _)).trans (afterWord_read mark _)).withLive
    rfl rfl rfl

/-- The rest of a header after its first sync word opens the ID field. -/
theorem passCells_header {mark : Word} {ws : List Word} {s : State} (hmode : s.cfg.mode = .mfm)
    (hst : s.live.state = .readHeaderBlockHeader) (hn : s.live.nextState = none) (hcount : s.live.bitCounter = 0)
    (hfit : 16 * 5 < 2 ^ s.par.counterBits) (hsync : s.par.mfmSyncCount = 3) (hmark : dataByte mark = s.par.amId) :
    passCells ((s.par.syncMfm :: s.par.syncMfm :: mark :: ws).flatMap cellsOf) s =
      passCells (ws.flatMap cellsOf) (idFieldOpened mark s) := by
  have hone : (afterWord s.par.syncMfm s).live.bitCounter = 16 * 1 := congrArg (· + 16) hcount
  have htwo : (afterWord s.par.syncMfm (afterWord s.par.syncMfm s)).live.bitCounter = 16 * 2 := congrArg (· + 16) hone
  have hsecond := passWord_sync (k := 0) hmode (.inl hst) hn hcount (by omega) rfl (by omega)
  have hthird := passWord_sync (s := afterWord s.par.syncMfm s) (w := s.par.syncMfm) hmode (.inl hst) hn hone
    (Nat.lt_trans (by decide) hfit) rfl (Nat.lt_of_lt_of_eq (by decide) hsync.symm)
  have hlast := passWord_idMark (s := afterWord s.par.syncMfm (afterWord s.par.syncMfm s)) hmode hst hn htwo
    (Nat.lt_trans (by decide) hfit) hmark (Nat.le_of_eq hsync)
  rw [passCells_words hsecond, passCells_words hthird, passCells_words hlast]
  rfl

/-- The state after words stored from place `k` of the ID buffer on. -/
def idWordsStored : Nat → List Word → State → State
  | _, [], s => s
  | k, w :: ws, s => idWordsStored (k + 1) ws (idByteStored k w s)

theorem idWordsStored_read (k : Nat) (ws : List Word) (s : State) :
    WordsRead ws s.live.crc s (idWordsStored k ws s) := by
  induction ws generalizing k s with
  | nil => exact ⟨rfl, rfl, rfl, rfl, rfl, rfl, rfl, rfl, rfl⟩
  | cons w ws ih => exact (idByteStored_read k w s).trans (ih (k + 1) _)

/-- Stored words are counted; the sequencer stays where it is. -/
theorem idWordsStored_counted (k : Nat) (ws : List Word) (s : State) :
    (idWordsStored k ws s).live.state = s.live.state ∧
    (idWordsStored k ws s).live.bitCounter = s.live.bitCounter + 16 * ws.length := by
  induction ws generalizing k s with
  | nil => exact ⟨rfl, rfl⟩
  | cons w ws ih =>
    obtain ⟨hst, hcount⟩ := ih (k + 1) (idByteStored k w s)
    refine ⟨hst, hcount.trans ?_⟩
    show s.live.bitCounter + 16 + 16 * ws.length = s.live.bitCounter + 16 * (ws.length + 1)
    omega

/-- Words inside an ID field, up to the fifth, are stored one after the other (43_read_states R204). -/
theorem passCells_idWords {k : Nat} {ws : List Word} {s : State} (hst : s.live.state = .readIdBlock)
    (hn : s.live.nextState = none) (hcount : s.live.bitCounter = 16 * k) (hk : k + ws.length ≤ 5)
    (hfit : 16 * 5 < 2 ^ s.par.counterBits) :
    passCells (ws.flatMap cellsOf) s = .ok (idWordsStored k ws s) := by
  induction ws generalizing k s with
  | nil => rfl
  | cons w ws ih =>
    rw [List.length_cons] at hk
    have hpass := passWord_readId (w := w) hst hn hcount (by omega)
    rw [if_neg (by omega)] at hpass
    have hcount' : (idByteStored k w s).live.bitCounter = 16 * (k + 1) := by
      show s.live.bitCounter + 16 = _
      omega
    rw [passCells_words hpass]
    exact ih hst hn hcount' (by omega) hfit

/-- An ID field of six bytes ends in the deferred transition to IDLE (43_read_states R204). -/
theorem passCells_idField {ws : List Word} {last : Word} {s : State} (hst : s.live.state = .readIdBlock)
    (hn : s.live.nextState = none) (hcount : s.live.bitCounter = 0) (hfit : 16 * 6 < 2 ^ s.par.counterBits)
    (hws : ws.length = 5) :
    passCells ((ws ++ [last]).flatMap cellsOf) s = delayTo .idle (idByteStored 5 last (idWordsStored 0 ws s)) := by
  have hread := idWordsStored_read 0 ws s
  obtain ⟨hst', hcount'⟩ := idWordsStored_counted 0 ws s
  have hfive : passCells (ws.flatMap cellsOf) s = .ok (idWordsStored 0 ws s) :=
    passCells_idWords hst hn hcount (by omega) (by omega)
  have hlast := passWord_readId (w := last) (k := 5) (hst'.trans hst) (hread.nextState.trans hn)
    (by rw [hcount', hcount, hws]) (by rw [hread.par]; exact hfit)
  rw [if_pos rfl] at hlast
  rw [List.flatMap_append, passCells_append, hfive, List.flatMap_singleton, Except.bind, ← passWord, hlast]

theorem idByteStored_idbuf (k : Nat) (w : Word) (s : State) :
    (idByteStored k w s).live.idbuf = s.live.idbuf.put k (dataByte w) := rfl

/-- The ID buffer after the six bytes of an ID field. -/
theorem idField_idbuf (w0 w1 w2 w3 w4 w5 : Word) (s : State) :
    (idByteStored 5 w5 (idWordsStored 0 [w0, w1, w2, w3, w4] s)).live.idbuf =
      ⟨dataByte w0, dataByte w1, dataByte w2, dataByte w3, dataByte w4, dataByte w5⟩ := by
  simp only [idWordsStored, idByteStored_idbuf, IdBuf.put]

theorem idByteStored_tm (k : Nat) (w : Word) (s : State) :
    (idByteStored k w s).live.tm = (idByteStored k w s).pll.ctime := by
  simp only [idByteStored, afterWord]

/-- The rest of a header after its first sync word, and its ID field: what stands before the transition to IDLE. -/
theorem passCells_headerField {sync mark w0 w1 w2 w3 w4 w5 : Word} {s : State} (hmode : s.cfg.mode = .mfm)
    (hst : s.live.state = .readHeaderBlockHeader) (hn : s.live.nextState = none) (hcount : s.live.bitCounter = 0)
    (hfit : 16 * 6 < 2 ^ s.par.counterBits) (hthree : s.par.mfmSyncCount = 3) (hsync : s.par.syncMfm = sync)
    (hmark : dataByte mark = s.par.amId) :
    ∃ t : State,
      passCells ([sync, sync, mark, w0, w1, w2, w3, w4, w5].flatMap cellsOf) s = delayTo .idle t ∧
      WordsRead [sync, sync, mark, w0, w1, w2, w3, w4, w5] s.live.crc s t ∧
      t.live.idbuf = ⟨dataByte w0, dataByte w1, dataByte w2, dataByte w3, dataByte w4, dataByte w5⟩ ∧
      t.live.state = .readIdBlock ∧ t.live.tm = t.pll.ctime := by
  have hheader := passCells_header (ws := [w0, w1, w2, w3, w4] ++ [w5]) hmode hst hn hcount (by omega) hthree hmark
  have hopened := idFieldOpened_read mark s
  rw [hsync] at hheader hopened
  have hostate : (idFieldOpened mark s).live.state = .readIdBlock := rfl
  have hocount : (idFieldOpened mark s).live.bitCounter = 0 := rfl
  generalize idFieldOpened mark s = o at hheader hopened hostate hocount
  have hfield := passCells_idField (ws := [w0, w1, w2, w3, w4]) (last := w5) hostate (hopened.nextState.trans hn) hocount
    (by rw [hopened.par]; exact hfit) rfl
  have hstored := (idWordsStored_read 0 [w0, w1, w2, w3, w4] o).trans (idByteStored_read 5 w5 _)
  exact ⟨_, hheader.trans hfield, hopened.trans hstored, idField_idbuf .., (idWordsStored_counted 0 _ o).1.trans hostate,
    idByteStored_tm ..⟩

/-- A whole header and its ID field pass under an engine that searches for a header. -/
theorem passCells_wholeField {sync mark w0 w1 w2 w3 w4 w5 : Word} {s : State} (hpar : s.par = Params.reference)
    (hmode : s.cfg.mode = .mfm) (hst : s.live.state = .searchAddressMarkHeader) (hn : s.live.nextState = none)
    (hshift : s.live.shiftReg = 0) (hsync : s.par.syncMfm = sync) (hmark : dataByte mark = s.par.amId) :
    ∃ t : State,
      passCells ([sync, sync, sync, mark, w0, w1, w2, w3, w4, w5].flatMap cellsOf) s = delayTo .idle t ∧
      WordsRead [sync, sync, sync, mark, w0, w1, w2, w3, w4, w5] s.par.crcInit s t ∧
      t.live.idbuf = ⟨dataByte w0, dataByte w1, dataByte w2, dataByte w3, dataByte w4, dataByte w5⟩ ∧
      t.live.state = .readIdBlock ∧ t.live.tm = t.pll.ctime := by
  have hfirst : passWord sync s = .ok (alignOn .readHeaderBlockHeader (afterCells (cellsOf sync) s)) :=
    passWord_searchHeader hn hshift hst (by rw [← hsync, hpar]; decide) (.inl ⟨hmode, hsync.symm, rfl⟩)
  have hread := alignOn_read sync .readHeaderBlockHeader s
  obtain ⟨hostate, hocount, -⟩ := alignOn_mark (s := s) .readHeaderBlockHeader (shiftBits_cellsOf sync _)
  obtain ⟨t, hpass, hrest, hfield⟩ := passCells_headerField (mark := mark) (sync := sync) (w0 := w0) (w1 := w1) (w2 := w2)
    (w3 := w3) (w4 := w4) (w5 := w5) ((congrArg Cfg.mode hread.cfg).trans hmode) hostate (hread.nextState.trans hn) hocount
    (by rw [hread.par, hpar]; decide) (by rw [hread.par, hpar]; rfl) (by rw [hread.par, hsync]) (by rw [hread.par, hmark])
  exact ⟨t, (passCells_words hfirst).trans hpass, hread.trans hrest, hfield⟩

/-- Settles O38: `passCells_wholeField`; the field takes time, so that the transition to IDLE lies ahead of real time. -/
theorem idFieldIsCaptured : Obligations.IdFieldIsCaptured := by
  unfold Obligations.IdFieldIsCaptured
  intro s c h r n hi lo start hpar hmode hst hn hshift hpll hstart hnow
  obtain ⟨t, hpass, hread, hidbuf, hstate, htm⟩ := passCells_wholeField (mark := mfmWord true 0xFE)
    (w0 := mfmWord false c) (w1 := mfmWord (c.getLsbD 0) h) (w2 := mfmWord (h.getLsbD 0) r)
    (w3 := mfmWord (r.getLsbD 0) n) (w4 := mfmWord (n.getLsbD 0) hi) (w5 := mfmWord (hi.getLsbD 0) lo)
    hpar hmode hst hn hshift (sync := 0x4489) (by rw [hpar]; rfl) (by rw [hpar]; exact dataByte_mfmWord _ _)
  obtain ⟨e, he, hlater⟩ := hread.later (List.cons_ne_nil _ _) hpll hstart
  have hahead : t.now < e := hread.now.trans_lt (hnow.trans_lt hlater)
  have hsync : dataByte 0x4489 = 0xA1 := by decide
  refine ⟨_, hpass.trans (delayTo_ahead (htm.trans he) hahead), ?_, ?_, hstate, rfl, hread.flags, hread.fifo, hread.drives⟩
  · simp only [dataByte_mfmWord] at hidbuf
    exact hidbuf
  · have hcrc := hread.crc
    rw [hpar] at hcrc
    simp only [List.map_cons, List.map_nil, dataByte_mfmWord, hsync] at hcrc
    rw [crcBits_flatMap]
    exact hcrc

end Sys2Proof.Proofs
end

section
/-! The PLL (40_pll): an equation of GET_NEXT_BIT for each of its answers, and what PLL_SET_CLOCK, PLL_RESET and LIVE_START make
of it. -/

namespace Sys2Proof.Proofs

open Sys2Proof.Machine Sys2Proof.Safety Sys2Proof.Laws

/-! The clock. -/

theorem setClock_short {period : Nat} (s : State) (h : period < 2) : setClock period s = refuse .clockPeriodTooShort :=
  if_pos h

theorem setClock_ok {period : Nat} (s : State) (h : 2 ≤ period) :
    setClock period s = .ok (s.setPll (s.pll.setClock s.par period)) :=
  if_neg h.not_gt

/-- The reference fractions meet the constraints of 00_scope R8. -/
theorem clockSound_reference : ClockSound Params.reference :=
  clockSound_of_fractions rfl (by decide) (by decide) (by decide) (by decide) (by decide)

/-- Settles O5: `setClock_ok`, `setClock_short` and `clockSound_reference`; the largest adjustment lies below the shortest
period, which is therefore positive. -/
theorem pllSetClockAndResetResult : Obligations.PllSetClockAndResetResult := by
  unfold Obligations.PllSetClockAndResetResult
  have hexec : ∀ (s : State) (period : Nat),
      exec (.pllSetClock period) s = finish ((setClock period s).map fun t => t.setOutcome .none) := fun _ _ => rfl
  refine ⟨fun s period h => ?_, fun s period h => ?_, fun s t period hpar ht => ?_, fun s t => rfl⟩
  · rw [hexec, setClock_ok s h]
    rfl
  · rw [hexec, setClock_short s h]
    rfl
  · obtain ⟨c, hc, rfl⟩ := finish_map_next ht
    obtain ⟨hperiod, rfl⟩ := setClock_cases hc
    obtain ⟨hmin, hmax, hadj⟩ := clockSound_reference s.pll period hperiod
    simp only [setOutcome_pll, setPll_pll, hpar]
    exact ⟨Nat.one_le_of_lt hadj, hmin, hmax⟩

/-! GET_NEXT_BIT, answer by answer (40_pll R152 to R154). -/

theorem cellEnd_ticks {p : Pll} {c : Nat} (hc : p.ctime = .ticks c) :
    p.cellEnd = .ticks (c + (p.period + p.phaseAdjust)).toNat := by
  rw [Pll.cellEnd, hc]
  rfl

theorem cellEnd_of_sum {p : Pll} {c next : Nat} (hc : p.ctime = .ticks c)
    (hnext : (next : Int) = c + p.period + p.phaseAdjust) : p.cellEnd = .ticks next := by
  rw [cellEnd_ticks hc, ← add_assoc, ← hnext]
  rfl

/-- Between two sound cells the next one ends after the cursor, and not later than the longest period and adjustment allow
(40_pll R158). -/
theorem cellEnd_sound {p : Pll} {c : Nat} (hp : PllSound p) (hc : p.ctime = .ticks c) :
    ∃ e : Nat, p.cellEnd = .ticks e ∧ c < e ∧ e ≤ c + p.maxPeriod + p.maxAdj := by
  obtain ⟨hmin, hmax, hphase, hadj⟩ := hp
  exact ⟨_, cellEnd_ticks hc, by omega, by omega⟩

/-- NOBIT: the cell ends after the limit. -/
theorem getNextBit_past {par : Params} {limit : Time} {p : Pll} (edge : Time) (hlimit : Time.lt limit p.cellEnd = true) :
    p.getNextBit par edge limit = none := by
  simp only [Pll.getNextBit, hlimit, if_true]

/-- A 0 cell: no transition ahead, or the next one after the cell. -/
theorem getNextBit_zero {par : Params} {edge limit : Time} {p : Pll} (hlimit : Time.lt limit p.cellEnd = false)
    (hedge : edge = .never ∨ Time.lt p.cellEnd edge = true) :
    p.getNextBit par edge limit = some (false, p.coast p.cellEnd) := by
  unfold Pll.getNextBit
  simp only [hlimit, Bool.false_eq_true, if_false]
  split
  · rfl
  · next hend => simp [hend, Time.lt] at hedge
  · next e n hend =>
    have he : n < e := by simpa [hend, Time.lt] using hedge
    rw [if_pos he, hend]

/-- A 1 cell: a transition not after the cell's end. -/
theorem getNextBit_one {par : Params} {limit : Time} {p : Pll} {edge next : Nat} (hlimit : Time.lt limit p.cellEnd = false)
    (hend : p.cellEnd = .ticks next) (hedge : edge ≤ next) :
    p.getNextBit par (.ticks edge) limit = some (true, p.lockOn par edge next) := by
  rw [hend] at hlimit
  simp [Pll.getNextBit, hend, hlimit, hedge.not_gt]

theorem exec_getNextBit_none {s : State} {limit : Time}
    (h : s.pll.getNextBit s.par (mediumNext s s.pll.ctime) limit = none) :
    exec (.getNextBit limit) s = .next (s.setOutcome .noBit) := by
  show execGetNextBit limit s = _
  rw [execGetNextBit, h]

theorem exec_getNextBit_some {s : State} {limit : Time} {b : Bool} {p : Pll}
    (h : s.pll.getNextBit s.par (mediumNext s s.pll.ctime) limit = some (b, p)) :
    exec (.getNextBit limit) s = .next { s with pll := p, outcome := if b then .bit1 else .bit0 } := by
  show execGetNextBit limit s = _
  rw [execGetNextBit, h]
  rfl

/-- GET_NEXT_BIT that reads a cell has put the PLL where `Pll.getNextBit` does, and nothing else. -/
theorem exec_getNextBit_cases {s t : State} {limit : Time} (h : exec (.getNextBit limit) s = .next t)
    (hbit : t.outcome ≠ .noBit) :
    ∃ (b : Bool) (p : Pll), s.pll.getNextBit s.par (mediumNext s s.pll.ctime) limit = some (b, p) ∧
      t = { s with pll := p, outcome := if b then .bit1 else .bit0 } := by
  cases hread : s.pll.getNextBit s.par (mediumNext s s.pll.ctime) limit with
  | none =>
    rw [exec_getNextBit_none hread] at h
    cases h
    exact absurd rfl hbit
  | some x =>
    rw [exec_getNextBit_some hread] at h
    cases h
    exact ⟨x.1, x.2, rfl, rfl⟩

/-- Settles O6: one equation of GET_NEXT_BIT for each answer; a cell from NEVER ends at NEVER. -/
theorem getNextBitResult : Obligations.GetNextBitResult := by
  unfold Obligations.GetNextBitResult
  refine ⟨fun s limit c next hc hnext => ?_, fun s hc => ?_⟩
  · have hend : s.pll.cellEnd = .ticks next := by
      rw [cellEnd_ticks hc, ← add_assoc, ← hnext]
      rfl
    rw [← hend, ← hc]
    refine ⟨fun hlimit => exec_getNextBit_none (getNextBit_past _ hlimit), fun hlimit => ⟨fun hedge => ?_, ?_⟩⟩
    · exact exec_getNextBit_some (getNextBit_zero hlimit (.inr hedge))
    · rintro edge delta hist hedge hin rfl rfl
      rw [hend]
      exact exec_getNextBit_some (hedge ▸ getNextBit_one hlimit hend hin)
  · have hend : s.pll.cellEnd = .never := by rw [Pll.cellEnd, hc]; rfl
    have hedge : mediumNext s s.pll.ctime = .never := by
      rw [hc]
      exact ite_self _
    refine ⟨fun n => exec_getNextBit_none (getNextBit_past _ (by rw [hend]; rfl)), ?_⟩
    rw [exec_getNextBit_some (getNextBit_zero rfl (.inl hedge)), hend, ← hc]
    rfl

/-- MediumNext answers with a time after the one it was asked for (20_memory R71). -/
theorem mediumNext_after {s : State} {t x : Nat} (h : mediumNext s (.ticks t) = .ticks x) : t < x := by
  unfold mediumNext at h
  split at h
  · exact (next_spec h).2
  · cases h

/-- Settles O7: the cell is read by `getNextBit_one`, and MediumNext looks strictly ahead. -/
theorem secondTransitionInCellIsLost : Obligations.SecondTransitionInCellIsLost := by
  unfold Obligations.SecondTransitionInCellIsLost
  intro s t limit first last h hbit hend hfirst hin
  obtain ⟨b, p, hread, rfl⟩ := exec_getNextBit_cases h hbit
  have hone := getNextBit_one (par := s.par) (getNextBit_cases hread).2.1 hend hin
  rw [hfirst, hone] at hread
  cases hread
  refine ⟨rfl, rfl, fun second later hsecond hlater hnext => ?_⟩
  have := mediumNext_after hnext
  omega

/-- Settles O8: `CursorSound.getNextBit` without its buffer, and `cellEnd_sound`. -/
theorem cellsHavePositiveLength : Obligations.CellsHavePositiveLength := by
  unfold Obligations.CellsHavePositiveLength
  intro s t limit c hp hc h hbit
  obtain ⟨b, p, hread, rfl⟩ := exec_getNextBit_cases h hbit
  obtain ⟨e, hend, hpos, hbound⟩ := cellEnd_sound hp hc
  have hatEnd := getNextBit_at_end hread
  rw [hend] at hatEnd
  exact ⟨(getNextBit_advances hp hc hatEnd).1, e, (getNextBit_cases hread).1.trans hend, hpos, hbound⟩

/-- With no transition ahead GET_NEXT_BIT without limit coasts to the end of the cell. -/
theorem exec_getNextBit_silent {s : State} (h : mediumNext s s.pll.ctime = .never) :
    exec (.getNextBit .never) s = .next { s with pll := s.pll.coast s.pll.cellEnd, outcome := .bit0 } :=
  exec_getNextBit_some (getNextBit_zero rfl (.inl h))

/-- Settles O9: `exec_getNextBit_silent` at the cursor and at each later one, all of them without a transition ahead. -/
theorem silenceReadsZero : Obligations.SilenceReadsZero := by
  unfold Obligations.SilenceReadsZero
  intro s c next hc hnext hle hsilent
  constructor
  · rw [exec_getNextBit_silent (by rw [hc]; exact hsilent c le_rfl), cellEnd_of_sum hc hnext]
    rfl
  · intro n
    have hend : (next + n * s.pll.period + ((s.pll.period : Int) + 0)).toNat = next + (n + 1) * s.pll.period := by
      rw [Nat.succ_mul]
      omega
    have hlater := hsilent (next + n * s.pll.period) (by omega)
    rw [exec_getNextBit_silent hlater, cellEnd_ticks rfl]
    simp only [Nat.cast_add, Nat.cast_mul] at hend ⊢
    rw [hend]
    rfl

/-! LIVE_START (45_live_control R261). -/

/-- LIVE_START where nothing but the cell's length can refuse it. -/
theorem start_of_entry {s : State} {d : Nat} {st : LiveState} (hlive : s.live.drive = none) (hd : d < s.par.ndrives)
    (hentry : isEntryState st = true) (hsectors : ¬(st = .writeTrackPreSectors ∧ s.cfg.fmtSectors = 0)) :
    start d st s = (setClock s.cfg.cellNominal (s.setLive (freshLive s.now d st))).bind fun t =>
      takeCheckpoint (t.setPll (t.pll.restart (.ticks t.now))) := by
  simp only [start, hlive, hd.not_ge, hentry, hsectors, Option.isSome_none, Bool.not_true, Bool.false_eq_true, if_false]
  rfl

/-- LIVE_START that is allowed: the context and the PLL are new, nothing is left to commit, and both are copied. -/
theorem start_ok {s : State} {d : Nat} {st : LiveState} (hlive : s.live.drive = none) (hd : d < s.par.ndrives)
    (hentry : isEntryState st = true) (hsectors : ¬(st = .writeTrackPreSectors ∧ s.cfg.fmtSectors = 0))
    (hcell : 2 ≤ s.cfg.cellNominal) {l : Live} {p : Pll} (hl : l = freshLive s.now d st)
    (hp : p = (s.pll.setClock s.par s.cfg.cellNominal).restart (.ticks s.now)) :
    start d st s = .ok { s with live := l, pll := p, snap := ⟨l, p⟩ } := by
  have hsaved : takeCheckpoint { s with live := l, pll := p } = .ok { s with live := l, pll := p, snap := ⟨l, p⟩ } :=
    takeCheckpoint_of_committed (by rw [hl]; rfl) (commitTo_never _ (by rw [hp]; rfl))
  rw [start_of_entry hlive hd hentry hsectors, setClock_ok _ hcell, ← hsaved, hl, hp]
  rfl

/-- Settles O27: LIVE_START's refusals in their order, and `start_ok`. -/
theorem liveStartResult : Obligations.LiveStartResult := by
  unfold Obligations.LiveStartResult
  intro s d st
  have hexec : exec (.liveStart d st) s = finish ((start d st s).map fun t => t.setOutcome .none) := rfl
  rw [hexec]
  refine ⟨fun hlive => ?_, fun hlive hd => ?_, fun hlive hd => ⟨fun h1 h2 h3 h4 => ?_, fun hst hn => ?_, fun hst => ?_⟩⟩
  · rw [start, if_pos (Option.isSome_iff_ne_none.2 hlive)]
    rfl
  · simp only [start, hlive, Option.isSome_none, Bool.false_eq_true, if_false, if_pos hd]
    rfl
  · have hentry : isEntryState st = false := by
      cases st with
      | searchAddressMarkHeader | searchAddressMarkData | writeSectorSkipGap2 | writeTrackPreSectors => contradiction
      | _ => rfl
    simp only [start, hlive, hd.not_ge, hentry, Option.isSome_none, Bool.not_false, Bool.false_eq_true, if_false, if_true]
    rfl
  · subst hst
    simp only [start, hlive, hd.not_ge, isEntryState, hn, and_self, Option.isSome_none, Bool.not_true,
      Bool.false_eq_true, if_false, if_true]
    rfl
  · have hentry : isEntryState st = true := by
      rcases hst with rfl | rfl | rfl | ⟨rfl, -⟩ <;> rfl
    have hsectors : ¬(st = .writeTrackPreSectors ∧ s.cfg.fmtSectors = 0) := by
      rcases hst with rfl | rfl | rfl | ⟨-, hn⟩
      · simp
      · simp
      · simp
      · exact fun h => hn h.2
    refine ⟨fun hshort => ?_, fun hcell l p hl hp => ?_⟩
    · rw [start_of_entry hlive hd hentry hsectors, setClock_short _ hshort]
      rfl
    · rw [start_ok hlive hd hentry hsectors hcell hl hp]
      rfl

end Sys2Proof.Proofs
end

section
/-! Runs that end (45_live_control R263, R271): from a cell state each turn of LIVE_RUN's loop reads or writes one cell, and
its rule then goes on, or defers a transition at the time reached; the first cell that would end after the limit suspends the
run. -/

namespace Sys2Proof.Proofs

open Sys2Proof.Machine Sys2Proof.Safety Sys2Proof.Laws

/-! Where a run stands and how it can end. -/

/-- The engine can run from cursor `c`: cells have positive length, the cursor is not before real time, no transition is
pending. -/
structure RunReady (c : Nat) (s : State) : Prop where
  sound : PllSound s.pll
  cursor : s.pll.ctime = .ticks c
  now : s.now ≤ c
  pending : s.live.nextState = none

/-- `t` differs from `s` in the live context, the PLL, the wake-ups and the outcome only. -/
def OnlyEngineMoved (s t : State) : Prop :=
  ∃ (l : Live) (p : Pll) (w : List Nat) (o : OpOutcome), t = { s with live := l, pll := p, wakeups := w, outcome := o }

theorem OnlyEngineMoved.trans {s t u : State} (h : OnlyEngineMoved s t) (k : OnlyEngineMoved t u) : OnlyEngineMoved s u := by
  obtain ⟨_, _, _, _, rfl⟩ := h
  obtain ⟨_, _, _, _, rfl⟩ := k
  exact ⟨_, _, _, _, rfl⟩

/-- A run to `n` from `s` at cursor `c` has ended in `t` with outcome `o`: suspended, with a PLL that is held back, or with a
transition of `due` deferred at the cursor reached. -/
structure RunEnds (n : Nat) (held : Pll → Prop) (due : List LiveState) (c : Nat) (s t : State) (o : OpOutcome) : Prop where
  kept : OnlyEngineMoved s t
  cursor : ∃ e : Nat, t.pll.ctime = .ticks e ∧ c ≤ e ∧ (c < e → e ≤ n) ∧
    (o = .suspended ∧ t.live.nextState = none ∧ t.wakeups = s.wakeups ∧ held t.pll ∨
      o = .delayed ∧ (∃ st ∈ due, t.live.nextState = some st) ∧ t.wakeups = Memory.insert s.wakeups e)

/-- A cell of a run to `n` has passed from cursor `c`: the engine is ready at its end, which is the live time. -/
structure CellPassed (n c : Nat) (s t : State) : Prop where
  kept : OnlyEngineMoved s t
  wakeups : t.wakeups = s.wakeups
  ready : ∃ e : Nat, RunReady e t ∧ t.live.tm = .ticks e ∧ c < e ∧ e ≤ n

/-- What a rule makes of a state `t` whose cell has passed: the run goes on, where `P` holds, or a transition of `due` is
deferred. -/
inductive CellServed (P : State → Prop) (due : List LiveState) (t : State) : Res (State × OpOutcome) → Prop where
  | goesOn {l : Live} (pending : l.nextState = t.live.nextState) (on : P { t with live := l }) :
      CellServed P due t (.ok ({ t with live := l }, .cont))
  | defers {st : LiveState} {l : Live} (isDue : st ∈ due) (tm : l.tm = t.live.tm) :
      CellServed P due t (thenDelay st { t with live := l })

/-- What one turn of a run can do: it ends suspended where it stands, or one cell passes and is served. -/
inductive Turn (n : Nat) (P : State → Prop) (held : Pll → Prop) (due : List LiveState) (c : Nat) (s : State) :
    Res (State × OpOutcome) → Prop where
  | suspends {p : Pll} (cursor : p.ctime = s.pll.ctime) (isHeld : held p) :
      Turn n P held due c s (.ok (s.setPll p, .suspended))
  | passes {t : State} {r : Res (State × OpOutcome)} (cell : CellPassed n c s t) (served : CellServed P due t r) :
      Turn n P held due c s r

/-- A deferred transition after a cell that ended ahead of real time ends the run (45_live_control R266). -/
theorem thenDelay_ends {n c : Nat} {held : Pll → Prop} {due : List LiveState} {s t : State} {st : LiveState} {l : Live}
    (hnow : s.now ≤ c) (hcell : CellPassed n c s t) (hdue : st ∈ due) (htm : l.tm = t.live.tm) :
    ∃ u : State, thenDelay st { t with live := l } = .ok (u, .delayed) ∧ u.live.nextState = some st ∧
      RunEnds n held due c s u .delayed := by
  obtain ⟨e, hready, he, hce, hen⟩ := hcell.ready
  have hahead : t.now < e := by
    obtain ⟨_, _, _, _, rfl⟩ := hcell.kept
    exact hnow.trans_lt hce
  have hdelay := delayTo_ahead (st := st) (s := { t with live := l }) (htm.trans he) hahead
  refine ⟨_, congrArg (Except.map fun u => (u, OpOutcome.delayed)) hdelay, rfl,
    hcell.kept.trans ⟨_, _, _, t.outcome, rfl⟩, e, hready.cursor, hce.le, fun _ => hen, .inr ⟨rfl, ⟨st, hdue, rfl⟩, ?_⟩⟩
  exact congrArg (Memory.insert · e) hcell.wakeups

/-- A run that ends after its first cell ends for the run as a whole. -/
theorem RunEnds.after_cell {n c e : Nat} {held : Pll → Prop} {due : List LiveState} {s t u : State} {o : OpOutcome}
    (h : RunEnds n held due e t u o) (hkept : OnlyEngineMoved s t) (hw : t.wakeups = s.wakeups) (hce : c < e) (hen : e ≤ n) :
    RunEnds n held due c s u o := by
  obtain ⟨hrest, f, hf, hef, hfn, hend⟩ := h
  rw [hw] at hend
  exact ⟨hkept.trans hrest, f, hf, by omega, fun _ => by omega, hend⟩

/-- When every turn from `P` suspends the run or passes a cell, the loop ends with fewer turns than there are ticks left: each
cell takes at least one (40_pll R158, 45_live_control R271). -/
theorem runLoop_ends {n : Nat} {P : State → Prop} {held : Pll → Prop} {due : List LiveState}
    (hturn : ∀ (c : Nat) (s : State), RunReady c s → P s →
      Turn n P held due c s (stateRule s.live.state none (.ticks n) s))
    {fuel c : Nat} {s : State} (hs : RunReady c s) (hP : P s) (hfuel : n - c < fuel) :
    ∃ (t : State) (o : OpOutcome), runLoop fuel (.ticks n) s = .ok (t, o) ∧ RunEnds n held due c s t o := by
  induction fuel generalizing c s with
  | zero => omega
  | succ fuel ih =>
    have hone := hturn c s hs hP
    rw [runLoop]
    generalize stateRule s.live.state none (.ticks n) s = r at hone
    cases hone with
    | suspends hcursor hheld =>
      exact ⟨_, _, rfl, ⟨_, _, _, s.outcome, rfl⟩, c, hcursor.trans hs.cursor, le_rfl, fun h => absurd h (lt_irrefl c),
        .inl ⟨rfl, hs.pending, rfl, hheld⟩⟩
    | @passes t _ hcell hserved =>
      cases hserved with
      | @goesOn l hpending hon =>
        obtain ⟨e, hready, -, hce, hen⟩ := hcell.ready
        have hnext : RunReady e { t with live := l } :=
          ⟨hready.sound, hready.cursor, hready.now, hpending.trans hready.pending⟩
        obtain ⟨u, o, hrun, hends⟩ := ih hnext hon (by omega)
        exact ⟨u, o, (if_pos (.inl rfl)).trans hrun,
          hends.after_cell (hcell.kept.trans ⟨_, _, _, t.outcome, rfl⟩) hcell.wakeups hce hen⟩
      | defers hdue htm =>
        obtain ⟨u, hu, hnext, hends⟩ := thenDelay_ends (held := held) hs.now hcell hdue htm
        rw [hu]
        exact ⟨u, .delayed, if_neg (by simp [hnext]), hends⟩

/-- LIVE_RUN to a finite limit, from a running state whose turns suspend the run or pass a cell (45_live_control R263). -/
theorem exec_liveRun_ends {n c : Nat} {P : State → Prop} {held : Pll → Prop} {due : List LiveState} {s : State}
    (hturn : ∀ (c : Nat) (s : State), RunReady c s → P s →
      Turn n P held due c s (stateRule s.live.state none (.ticks n) s))
    (hs : RunReady c s) (hP : P s) (hst : s.live.state ≠ .idle) :
    ∃ t : State, exec (.liveRun (.ticks n)) s = .next t ∧ RunEnds n held due c s t t.outcome := by
  have hfuel : n - c < runBudget n s := by
    have h := runBudget_enough (n := n) hs.sound hs.cursor
    rw [turnsLeft, if_neg hst] at h
    omega
  obtain ⟨t, o, hrun, hkept, hcursor⟩ := runLoop_ends hturn hs hP hfuel
  have hto : runTo (.ticks n) s = .ok (t, o) := (if_neg (by simp [hst, hs.pending])).trans hrun
  refine ⟨t.setOutcome o, ?_, hkept.trans ⟨_, _, _, o, rfl⟩, hcursor⟩
  show finish (withOutcome (runTo (.ticks n) s)) = _
  rw [hto]
  rfl

/-! The turns that read a cell. -/

/-- The cell to read ends after `n`. -/
def CellEndsAfter (n : Nat) (p : Pll) : Prop := Time.lt (.ticks n) p.cellEnd = true

/-- The transitions that a run in a state that reads cells can defer; there are none where no run stays, nor in a header
state in FM, which is refused. -/
def dueOnRead (mode : Mode) : LiveState → List LiveState
  | .searchAddressMarkHeader => [.idle]
  | .readHeaderBlockHeader => if mode = .mfm then [.idle] else []
  | .readIdBlock => [.idle]
  | .searchAddressMarkData => [.idle, .readSectorDataByte]
  | .readDataBlockHeader => if mode = .mfm then [.idle, .readSectorDataByte] else []
  | .readSectorData => [.idle, .readSectorDataByte]
  | .writeSectorSkipGap2 => [.writeSectorData]
  | _ => []

/-- The run is on the read path whose transitions are `due`. -/
def OnReadPath (due : List LiveState) (s : State) : Prop := dueOnRead s.cfg.mode s.live.state = due

/-- NOBIT is given only when the cell ends after the limit (40_pll R152). -/
theorem lt_cellEnd_of_getNextBit_none {par : Params} {edge limit : Time} {p : Pll}
    (h : p.getNextBit par edge limit = none) : Time.lt limit p.cellEnd = true := by
  unfold Pll.getNextBit at h
  dsimp only at h
  split at h
  · assumption
  split at h
  · cases h
  · cases h
  · split at h <;> cases h

/-- READ_ONE_BIT suspends only when the cell ends after the limit (43_read_states R200). -/
theorem cellEndsAfter_of_readCell_none {n : Nat} {src : Option Bool} {s : State}
    (h : readCell src (.ticks n) s = none) : CellEndsAfter n s.pll := by
  unfold readCell at h
  split at h
  · next hread => exact lt_cellEnd_of_getNextBit_none hread
  · cases h

theorem readCell_passed {n c : Nat} {s t : State} (hs : RunReady c s) (h : readCell none (.ticks n) s = some t) :
    CellPassed n c s t := by
  obtain ⟨⟨hsound, e, he, hce, hen⟩, hpending, -⟩ := readCell_advances hs.sound hs.cursor h
  obtain ⟨b, p, -, rfl⟩ := readCell_cases h
  have hready : RunReady e { s with pll := p, live := s.live.shiftIn s.par b p.ctime } :=
    ⟨hsound, he, hs.now.trans hce.le, hpending.trans hs.pending⟩
  exact ⟨⟨_, _, _, s.outcome, rfl⟩, rfl, e, hready, he, hce, hen⟩

/-- READ_ONE_BIT leaves the sequencer and the configuration alone. -/
theorem OnReadPath.readCell {due : List LiveState} {src : Option Bool} {limit : Time} {s t : State}
    (hpath : OnReadPath due s) (h : readCell src limit s = some t) : OnReadPath due t := by
  obtain ⟨b, p, -, rfl⟩ := readCell_cases h
  exact hpath

/-- A turn of a rule that reads a cell: what is left to say is how the rule serves it. -/
theorem turn_of_readCell {n c : Nat} {due : List LiveState} {s : State} {r : Res (State × OpOutcome)} (hs : RunReady c s)
    (hpath : OnReadPath due s) (hnone : readCell none (.ticks n) s = none → r = .ok (s, .suspended))
    (hsome : ∀ t : State, readCell none (.ticks n) s = some t → OnReadPath due t → CellServed (OnReadPath due) due t r) :
    Turn n (OnReadPath due) (CellEndsAfter n) due c s r := by
  cases hread : readCell none (.ticks n) s with
  | none =>
    rw [hnone hread]
    exact .suspends (p := s.pll) rfl (cellEndsAfter_of_readCell_none hread)
  | some t => exact .passes (readCell_passed hs hread) (hsome t hread (hpath.readCell hread))

/-! Rule by rule: where the rule goes on it stays on its path, and what it defers is one of the path's transitions. -/

section Rules
variable {n c : Nat} {s : State} (hs : RunReady c s)
include hs

theorem ruleSearchHeader_turn (hpath : OnReadPath [.idle] s) :
    Turn n (OnReadPath [.idle]) (CellEndsAfter n) [.idle] c s (ruleSearchHeader none (.ticks n) s) := by
  refine turn_of_readCell hs hpath (fun h => by simp only [ruleSearchHeader, h]) fun t ht hstay => ?_
  simp only [ruleSearchHeader, ht]
  split_ifs with hmfm hfm
  · exact .goesOn rfl (if_pos hmfm.1)
  · exact .goesOn rfl rfl
  · exact .goesOn rfl hstay

theorem ruleHeaderHeader_turn (hpath : OnReadPath [.idle] s) (hmode : s.cfg.mode = .mfm) :
    Turn n (OnReadPath [.idle]) (CellEndsAfter n) [.idle] c s (ruleHeaderHeader none (.ticks n) s) := by
  have hfm : ¬ s.cfg.mode = .fm := by simp [hmode]
  refine turn_of_readCell hs hpath (fun h => by simp only [ruleHeaderHeader, if_neg hfm, h]) fun t ht hstay => ?_
  simp only [ruleHeaderHeader, if_neg hfm, ht]
  split_ifs
  · exact .goesOn rfl hstay
  · exact .goesOn rfl rfl
  · exact .goesOn rfl hstay
  · exact .goesOn rfl rfl
  · exact .goesOn rfl rfl

theorem ruleReadId_turn (hpath : OnReadPath [.idle] s) :
    Turn n (OnReadPath [.idle]) (CellEndsAfter n) [.idle] c s (ruleReadId none (.ticks n) s) := by
  refine turn_of_readCell hs hpath (fun h => by simp only [ruleReadId, h]) fun t ht hstay => ?_
  simp only [ruleReadId, ht]
  split_ifs
  · exact .goesOn rfl hstay
  · exact .defers (List.mem_singleton_self _) rfl
  · exact .goesOn rfl hstay

theorem ruleSearchData_turn (hpath : OnReadPath [.idle, .readSectorDataByte] s) :
    Turn n (OnReadPath [.idle, .readSectorDataByte]) (CellEndsAfter n) [.idle, .readSectorDataByte] c s
      (ruleSearchData none (.ticks n) s) := by
  refine turn_of_readCell hs hpath (fun h => by simp only [ruleSearchData, h]) fun t ht hstay => ?_
  simp only [ruleSearchData, ht]
  split_ifs with hlate hearly hmfm hdam hddam
  · exact .defers List.mem_cons_self rfl
  · exact .goesOn rfl hstay
  · exact .goesOn rfl (if_pos hmfm.1)
  · exact .goesOn rfl rfl
  · exact .goesOn rfl rfl
  · exact .goesOn rfl hstay

theorem ruleDataHeader_turn (hpath : OnReadPath [.idle, .readSectorDataByte] s) (hmode : s.cfg.mode = .mfm) :
    Turn n (OnReadPath [.idle, .readSectorDataByte]) (CellEndsAfter n) [.idle, .readSectorDataByte] c s
      (ruleDataHeader none (.ticks n) s) := by
  have hfm : ¬ s.cfg.mode = .fm := by simp [hmode]
  refine turn_of_readCell hs hpath (fun h => by simp only [ruleDataHeader, if_neg hfm, h]) fun t ht hstay => ?_
  simp only [ruleDataHeader, if_neg hfm, ht]
  split_ifs
  · exact .goesOn rfl hstay
  · exact .defers List.mem_cons_self rfl
  · exact .goesOn rfl hstay
  · exact .goesOn rfl rfl
  · exact .goesOn rfl rfl
  · exact .defers List.mem_cons_self rfl

theorem ruleSectorData_turn (hpath : OnReadPath [.idle, .readSectorDataByte] s) :
    Turn n (OnReadPath [.idle, .readSectorDataByte]) (CellEndsAfter n) [.idle, .readSectorDataByte] c s
      (ruleSectorData none (.ticks n) s) := by
  refine turn_of_readCell hs hpath (fun h => by simp only [ruleSectorData, h]) fun t ht hstay => ?_
  simp only [ruleSectorData, ht]
  split_ifs
  · exact .goesOn rfl hstay
  · exact .defers (List.mem_cons_of_mem _ List.mem_cons_self) rfl
  · exact .defers List.mem_cons_self rfl
  · exact .goesOn rfl hstay

theorem ruleSkipGap2_turn (hpath : OnReadPath [.writeSectorData] s) :
    Turn n (OnReadPath [.writeSectorData]) (CellEndsAfter n) [.writeSectorData] c s (ruleSkipGap2 none (.ticks n) s) := by
  refine turn_of_readCell hs hpath (fun h => by simp only [ruleSkipGap2, h]) fun t ht hstay => ?_
  simp only [ruleSkipGap2, ht]
  split_ifs
  · exact .goesOn rfl hstay
  · exact .defers (List.mem_singleton_self _) rfl

end Rules

/-- On a read path every turn suspends the run or passes a cell, and stays on the path. -/
theorem stateRule_readTurn {n c : Nat} {due : List LiveState} {s : State} (hdue : due ≠ []) (hs : RunReady c s)
    (hpath : OnReadPath due s) :
    Turn n (OnReadPath due) (CellEndsAfter n) due c s (stateRule s.live.state none (.ticks n) s) := by
  obtain ⟨st, hst⟩ : ∃ st : LiveState, s.live.state = st := ⟨_, rfl⟩
  have hdueOf : dueOnRead s.cfg.mode st = due := hst ▸ hpath
  rw [hst]
  cases st with
  | searchAddressMarkHeader => subst hdueOf; exact ruleSearchHeader_turn hs hpath
  | readHeaderBlockHeader =>
    by_cases hmode : s.cfg.mode = .mfm
    · obtain rfl : [.idle] = due := (if_pos hmode).symm.trans hdueOf
      exact ruleHeaderHeader_turn hs hpath hmode
    · exact absurd (hdueOf.symm.trans (if_neg hmode)) hdue
  | readIdBlock => subst hdueOf; exact ruleReadId_turn hs hpath
  | searchAddressMarkData => subst hdueOf; exact ruleSearchData_turn hs hpath
  | readDataBlockHeader =>
    by_cases hmode : s.cfg.mode = .mfm
    · obtain rfl : [.idle, .readSectorDataByte] = due := (if_pos hmode).symm.trans hdueOf
      exact ruleDataHeader_turn hs hpath hmode
    · exact absurd (hdueOf.symm.trans (if_neg hmode)) hdue
  | readSectorData => subst hdueOf; exact ruleSectorData_turn hs hpath
  | writeSectorSkipGap2 => subst hdueOf; exact ruleSkipGap2_turn hs hpath
  | idle | readSectorDataByte | writeSectorData | writeSectorDataByte | writeTrackPreSectors | writeTrackPreSectorsByte
  | writeTrackSector | writeTrackSectorByte | writeTrackPostSectors | writeTrackPostSectorsByte =>
    exact absurd hdueOf.symm hdue

/-! The turns that write a cell. -/

/-- The cell to write ends after `n`. -/
def WriteEndsAfter (n : Nat) (p : Pll) : Prop := ∀ e : Nat, p.ctime = .ticks e → n < e + p.period

/-- The transitions that a run in an emit state can defer; there are none in another state. -/
def dueOnEmit : LiveState → List LiveState
  | .writeSectorDataByte => [.writeSectorData]
  | .writeTrackPreSectorsByte => [.writeTrackPreSectors, .writeTrackSector]
  | .writeTrackSectorByte => [.writeTrackSector, .writeTrackPostSectors]
  | .writeTrackPostSectorsByte => [.writeTrackPostSectors]
  | _ => []

/-- The run is in the emit state whose transitions are `due`, with room in the write buffer for the cells that are left of the
word, and counters wide enough to count them. -/
structure Emitting (due : List LiveState) (s : State) : Prop where
  path : dueOnEmit s.live.state = due
  count : s.live.bitCounter ≤ 16
  room : s.pll.wbuf.length + max 1 (16 - s.live.bitCounter) ≤ s.par.wbufLen
  counters : 5 ≤ s.par.counterBits

/-- The implicit START_WRITING may empty the buffer, and moves nothing (41_write_encoder R173). -/
theorem enterWrite_frame (p : Pll) :
    p.enterWrite.ctime = p.ctime ∧ p.enterWrite.period = p.period ∧ (PllSound p → PllSound p.enterWrite) ∧
      p.enterWrite.wbuf.length ≤ p.wbuf.length := by
  unfold Pll.enterWrite
  split
  · exact ⟨rfl, rfl, id, Nat.zero_le _⟩
  · exact ⟨rfl, rfl, id, le_rfl⟩

theorem writeEnd_ticks {p : Pll} {c : Nat} (hc : p.ctime = .ticks c) :
    p.enterWrite.ctime.add p.enterWrite.period = .ticks (c + p.period) := by
  obtain ⟨hctime, hperiod, -⟩ := enterWrite_frame p
  rw [hctime, hperiod, hc]
  rfl

/-- WRITE_NEXT_BIT of a cell that would end after the limit (41_write_encoder R173). -/
theorem writeNextBit_exceeds {par : Params} {n c : Nat} {p : Pll} (bit : Bool) (hc : p.ctime = .ticks c)
    (hlimit : n < c + p.period) : p.writeNextBit par bit (.ticks n) = .ok (false, p.enterWrite) := by
  simp only [Pll.writeNextBit, writeEnd_ticks hc, Time.lt, decide_eq_true hlimit, if_true]

/-- WRITE_NEXT_BIT within the limit and with room for a transition writes its cell (41_write_encoder R173, R177). -/
theorem writeNextBit_writes {par : Params} {n c : Nat} {p : Pll} (bit : Bool) (hp : PllSound p) (hc : p.ctime = .ticks c)
    (hlimit : c + p.period ≤ n) (hroom : p.wbuf.length < par.wbufLen) :
    ∃ q : Pll, p.writeNextBit par bit (.ticks n) = .ok (true, q) ∧ PllSound q ∧ q.ctime = .ticks (c + p.period) ∧
      q.wbuf.length ≤ p.wbuf.length + 1 := by
  obtain ⟨-, -, hsound, hlen⟩ := enterWrite_frame p
  have hend := writeEnd_ticks hc
  have hwithin : Time.lt (.ticks n) (.ticks (c + p.period)) = false := by simpa [Time.lt] using hlimit
  have hfull : ¬ par.wbufLen ≤ p.enterWrite.wbuf.length := by omega
  simp only [Pll.writeNextBit, hend, hwithin, hfull, Bool.false_eq_true, if_false]
  cases bit with
  | false => exact ⟨_, rfl, hsound hp, rfl, hlen.trans (Nat.le_succ _)⟩
  | true =>
    refine ⟨_, rfl, hsound hp, rfl, ?_⟩
    simpa using hlen

theorem countUp_of_le {par : Params} {k : Nat} (hbits : 5 ≤ par.counterBits) (hk : k ≤ 16) : countUp par k = k + 1 := by
  have hwide : 2 ^ 5 ≤ 2 ^ par.counterBits := Nat.pow_le_pow_right (by decide) hbits
  exact Nat.mod_eq_of_lt (by omega)

/-- WRITE_ONE_BIT of a cell that would end after the limit only enters write mode (44_write_states R230). -/
theorem writeCell_exceeds {n c : Nat} {s : State} (hc : s.pll.ctime = .ticks c) (hlimit : n < c + s.pll.period) :
    writeCell (.ticks n) s = .ok (false, s.setPll s.pll.enterWrite) := by
  rw [writeCell, writeNextBit_exceeds _ hc hlimit]
  rfl

/-- WRITE_ONE_BIT within the limit, with room for a transition, passes a cell (44_write_states R230). -/
theorem writeCell_writes {n c : Nat} {s : State} (hs : RunReady c s) (hlimit : c + s.pll.period ≤ n)
    (hroom : s.pll.wbuf.length < s.par.wbufLen) :
    ∃ q : Pll, writeCell (.ticks n) s = .ok (true, { s with pll := q, live := s.live.shiftOut s.par q.ctime }) ∧
      CellPassed n c s { s with pll := q, live := s.live.shiftOut s.par q.ctime } ∧
      q.wbuf.length ≤ s.pll.wbuf.length + 1 := by
  obtain ⟨q, hwrite, hsound, hq, hlen⟩ :=
    writeNextBit_writes (s.live.wsr.getLsbD 15) hs.sound hs.cursor hlimit hroom
  have hpos : 0 < s.pll.period := by
    obtain ⟨hmin, -, -, hadj⟩ := hs.sound
    omega
  have hready : RunReady (c + s.pll.period) { s with pll := q, live := s.live.shiftOut s.par q.ctime } :=
    ⟨hsound, hq, hs.now.trans (Nat.le_add_right _ _), hs.pending⟩
  refine ⟨q, ?_, ⟨⟨_, _, _, s.outcome, rfl⟩, rfl, _, hready, hq, by omega, hlimit⟩, hlen⟩
  rw [writeCell, hwrite]
  rfl

/-- A turn of an emit state: the run is suspended in write mode, or a cell passes, and after the last one of the word the
transition is deferred that `next` names (44_write_states R235, R238, R241, R243). -/
theorem emitCell_turn {n c : Nat} {due : List LiveState} {next : State → Bool × LiveState} {s : State} (hs : RunReady c s)
    (hemit : Emitting due s) (hnext : ∀ t : State, (next t).2 ∈ due) :
    Turn n (Emitting due) (WriteEndsAfter n) due c s (emitCell (.ticks n) next s) := by
  obtain ⟨hpath, hcount, hroom, hbits⟩ := hemit
  unfold emitCell
  by_cases hlimit : n < c + s.pll.period
  · obtain ⟨hctime, hperiod, -⟩ := enterWrite_frame s.pll
    rw [writeCell_exceeds hs.cursor hlimit]
    refine .suspends hctime fun e he => ?_
    rw [hctime, hs.cursor] at he
    cases he
    rwa [hperiod]
  · obtain ⟨q, hwrite, hcell, hlen⟩ := writeCell_writes (n := n) hs (by omega) (by omega)
    have hcounted : (s.live.shiftOut s.par q.ctime).bitCounter = s.live.bitCounter + 1 := countUp_of_le hbits hcount
    rw [hwrite]
    simp only [bind, Except.bind, Bool.not_true, Bool.false_eq_true, if_false]
    refine .passes hcell ?_
    split_ifs with hmore hrestart
    · have hleft : s.live.bitCounter + 1 < 16 := hcounted ▸ hmore
      refine .goesOn rfl ⟨hpath, hcounted.trans_le hleft.le, ?_, hbits⟩
      show q.wbuf.length + max 1 (16 - (s.live.shiftOut s.par q.ctime).bitCounter) ≤ s.par.wbufLen
      rw [hcounted]
      omega
    · exact .defers (hnext _) rfl
    · exact .defers (hnext _) rfl

/-- In an emit state every turn suspends the run or passes a cell, and stays in the state. -/
theorem stateRule_emitTurn {n c : Nat} {due : List LiveState} {s : State} (hdue : due ≠ []) (hs : RunReady c s)
    (hemit : Emitting due s) :
    Turn n (Emitting due) (WriteEndsAfter n) due c s (stateRule s.live.state none (.ticks n) s) := by
  obtain ⟨st, hst⟩ : ∃ st : LiveState, s.live.state = st := ⟨_, rfl⟩
  have hdueOf : dueOnEmit st = due := hst ▸ hemit.path
  rw [hst]
  cases st with
  | writeSectorDataByte =>
    subst hdueOf
    rw [stateRule, ruleWriteSectorByte]
    exact emitCell_turn hs hemit fun t => List.mem_singleton_self _
  | writeTrackPreSectorsByte =>
    subst hdueOf
    rw [stateRule, rulePreSectorsByte]
    refine emitCell_turn hs hemit fun t => ?_
    split
    · exact List.mem_cons_of_mem _ List.mem_cons_self
    · exact List.mem_cons_self
  | writeTrackSectorByte =>
    subst hdueOf
    rw [stateRule, ruleTrackSectorByte]
    refine emitCell_turn hs hemit fun t => ?_
    split
    · exact List.mem_cons_of_mem _ List.mem_cons_self
    · exact List.mem_cons_self
  | writeTrackPostSectorsByte =>
    subst hdueOf
    rw [stateRule, rulePostSectorsByte]
    exact emitCell_turn hs hemit fun t => List.mem_singleton_self _
  | idle | searchAddressMarkHeader | readHeaderBlockHeader | readIdBlock | searchAddressMarkData | readDataBlockHeader
  | readSectorData | readSectorDataByte | writeSectorSkipGap2 | writeSectorData | writeTrackPreSectors | writeTrackSector
  | writeTrackPostSectors => exact absurd hdueOf.symm hdue

/-! LIVE_RUN. -/

theorem RunEnds.mono {n c : Nat} {held held' : Pll → Prop} {due : List LiveState} {s t : State} {o : OpOutcome}
    (h : RunEnds n held due c s t o) (himp : ∀ p : Pll, held p → held' p) : RunEnds n held' due c s t o := by
  obtain ⟨hkept, e, he, hce, hen, hend⟩ := h
  exact ⟨hkept, e, he, hce, hen, hend.imp_left fun ⟨ho, hnext, hw, hheld⟩ => ⟨ho, hnext, hw, himp _ hheld⟩⟩

/-- A run on a read path ends, whatever the medium holds (45_live_control R271). -/
theorem exec_liveRun_read {n c : Nat} {due : List LiveState} {s : State} (hs : RunReady c s) (hpath : OnReadPath due s)
    (hdue : due ≠ []) :
    ∃ t : State, exec (.liveRun (.ticks n)) s = .next t ∧ RunEnds n (CellEndsAfter n) due c s t t.outcome := by
  refine exec_liveRun_ends (fun c s => stateRule_readTurn hdue) hs hpath fun hidle => hdue ?_
  rw [← hpath, hidle]
  rfl

/-- A run in an emit state ends. -/
theorem exec_liveRun_emit {n c : Nat} {due : List LiveState} {s : State} (hs : RunReady c s) (hemit : Emitting due s)
    (hdue : due ≠ []) :
    ∃ t : State, exec (.liveRun (.ticks n)) s = .next t ∧ RunEnds n (WriteEndsAfter n) due c s t t.outcome := by
  refine exec_liveRun_ends (fun c s => stateRule_emitTurn hdue) hs hemit fun hidle => hdue ?_
  rw [← hemit.path, hidle]
  rfl

/-- Settles O29: `exec_liveRun_read` from the states that read cells, `exec_liveRun_emit` from the emit states. -/
theorem runsEnd : Obligations.RunsEnd := by
  unfold Obligations.RunsEnd
  intro s n c due emits hsound hc hnow hpending hpath
  have hs : RunReady c s := ⟨hsound, hc, hnow, hpending⟩
  have hends : ∃ t : State, exec (.liveRun (.ticks n)) s = .next t ∧
      RunEnds n (fun p => (emits = false → CellEndsAfter n p) ∧ (emits = true → WriteEndsAfter n p)) due c s t
        t.outcome := by
    obtain ⟨rfl, hread⟩ | ⟨rfl, hcount, hroom, hbits, hemit⟩ := hpath
    · have hpath : OnReadPath due s ∧ due ≠ [] := by
        rcases hread with ⟨h, rfl⟩ | ⟨h, hm, rfl⟩ | ⟨h, rfl⟩ | ⟨h, rfl⟩ | ⟨h, hm, rfl⟩ | ⟨h, rfl⟩ | ⟨h, rfl⟩ <;>
          simp [OnReadPath, dueOnRead, *]
      obtain ⟨t, hrun, hend⟩ := exec_liveRun_read hs hpath.1 hpath.2
      exact ⟨t, hrun, hend.mono fun p hp => ⟨fun _ => hp, nofun⟩⟩
    · have hpath : dueOnEmit s.live.state = due ∧ due ≠ [] := by
        rcases hemit with ⟨h, rfl⟩ | ⟨h, rfl⟩ | ⟨h, rfl⟩ | ⟨h, rfl⟩ <;> simp [dueOnEmit, h]
      obtain ⟨t, hrun, hend⟩ := exec_liveRun_emit hs ⟨hpath.1, hcount, by omega, hbits⟩ hpath.2
      exact ⟨t, hrun, hend.mono fun p hp => ⟨nofun, fun _ => hp⟩⟩
  obtain ⟨t, hrun, ⟨l, p, w, o, rfl⟩, e, he, hce, hen, hend⟩ := hends
  refine ⟨_, e, hrun, he, hend.imp_left ?_, hce, hen, rfl, rfl, rfl, rfl, rfl, rfl, rfl⟩
  exact fun ⟨ho, hnext, hw, hread, hwrite⟩ => ⟨ho, hnext, hw, hread, fun h => hwrite h e he⟩

end Sys2Proof.Proofs
end

section
/-! The write encoder (41_write_encoder): WRITE_NEXT_BIT, START_WRITING and STOP_WRITING answer by answer, and the
items a load state loads (44_write_states R231). -/

namespace Sys2Proof.Proofs

open Sys2Proof.Machine Sys2Proof.Safety Sys2Proof.Laws

/-! Write mode (41_write_encoder R173). -/

theorem enterWrite_of_never {p : Pll} (h : p.writeStart = .never) :
    p.enterWrite = { p with writeStart := p.ctime, wbuf := [] } := by
  rw [Pll.enterWrite, h]

theorem enterWrite_of_ticks {p : Pll} {b : Nat} (h : p.writeStart = .ticks b) : p.enterWrite = p := by
  rw [Pll.enterWrite, h]

/-- Once entered, write mode is not entered again: what is buffered stays. -/
theorem enterWrite_idem (p : Pll) : p.enterWrite.enterWrite = p.enterWrite := by
  cases hstart : p.writeStart with
  | ticks b => rw [enterWrite_of_ticks hstart, enterWrite_of_ticks hstart]
  | never =>
    rw [enterWrite_of_never hstart]
    cases hc : p.ctime with
    | ticks c => rw [enterWrite_of_ticks rfl]
    | never => rw [enterWrite_of_never rfl]

theorem writeCenter_ticks {p : Pll} {c : Nat} (hc : p.ctime = .ticks c) :
    p.enterWrite.ctime.add (p.enterWrite.period / 2 : Nat) = .ticks (c + p.period / 2) := by
  obtain ⟨hctime, hperiod, -⟩ := enterWrite_frame p
  rw [hctime, hperiod, hc]
  rfl

/-! WRITE_NEXT_BIT, answer by answer (41_write_encoder R173, R177). -/

section Answers

variable {par : Params} {limit : Time} {p : Pll} {c : Nat}

/-- WOULD_EXCEED: the cell ends after the limit. -/
theorem writeNextBit_past (bit : Bool) (hc : p.ctime = .ticks c) (hlimit : Time.lt limit (.ticks (c + p.period)) = true) :
    p.writeNextBit par bit limit = .ok (false, p.enterWrite) := by
  simp only [Pll.writeNextBit, writeEnd_ticks hc, hlimit, if_true]

theorem writeNextBit_zero (hc : p.ctime = .ticks c) (hlimit : Time.lt limit (.ticks (c + p.period)) = false) :
    p.writeNextBit par false limit = .ok (true, { p.enterWrite with ctime := .ticks (c + p.period) }) := by
  simp only [Pll.writeNextBit, writeEnd_ticks hc, hlimit, Bool.false_eq_true, if_false]

theorem writeNextBit_one (hc : p.ctime = .ticks c) (hlimit : Time.lt limit (.ticks (c + p.period)) = false)
    (hroom : p.enterWrite.wbuf.length < par.wbufLen) :
    p.writeNextBit par true limit = .ok (true, { p.enterWrite with
      ctime := .ticks (c + p.period)
      wbuf := p.enterWrite.wbuf ++ [.ticks (c + p.period / 2)] }) := by
  simp only [Pll.writeNextBit, writeEnd_ticks hc, writeCenter_ticks hc, hlimit, hroom.not_ge, Bool.false_eq_true, if_false,
    if_true]

theorem writeNextBit_full (hc : p.ctime = .ticks c) (hlimit : Time.lt limit (.ticks (c + p.period)) = false)
    (hfull : par.wbufLen ≤ p.enterWrite.wbuf.length) :
    p.writeNextBit par true limit = .error (.fault .writeBufferOverflow) := by
  simp only [Pll.writeNextBit, writeEnd_ticks hc, hlimit, hfull, Bool.false_eq_true, if_false, if_true]

end Answers

/-- Settles O10: the PLL of the statement is the one that has entered write mode, and `Pll.writeNextBit` has one equation for
each answer. -/
theorem writeNextBitResult : Obligations.WriteNextBitResult := by
  unfold Obligations.WriteNextBitResult
  intro s bit limit p c etime hc hp hetime
  have hexec : ∀ bit : Bool, exec (.writeNextBit bit limit) s =
      finish ((s.pll.writeNextBit s.par bit limit).map fun x =>
        (s.setPll x.2).setOutcome (if x.1 then .ok else .wouldExceed)) := fun _ => rfl
  have hentered : p = s.pll.enterWrite := by
    rw [hp, ← hc]
    cases hstart : s.pll.writeStart with
    | never => exact (enterWrite_of_never hstart).symm
    | ticks b => exact (enterWrite_of_ticks hstart).symm
  rw [hentered, hetime]
  refine ⟨fun hlimit => ?_, fun hlimit => ⟨?_, ?_, ?_⟩⟩
  · rw [hexec, writeNextBit_past bit hc hlimit]
    rfl
  · rintro rfl
    rw [hexec, writeNextBit_zero hc hlimit]
    rfl
  · rintro rfl hroom
    rw [hexec, writeNextBit_one hc hlimit hroom]
    rfl
  · rintro rfl hfull
    rw [hexec, writeNextBit_full hc hlimit hfull]
    rfl

/-! STOP_WRITING (41_write_encoder R176). -/

theorem exec_stopWriting_of_commit {s c : State} {tm : Time} (h : commitTo tm s = .ok c) :
    exec (.stopWriting tm) s = .next ((c.setPll { c.pll with writeStart := .never }).setOutcome .none) := by
  show execStopWriting tm s = _
  rw [execStopWriting, stopWritingAt, h]
  rfl

/-- Settles O12: START_WRITING by its definition; STOP_WRITING by each of COMMIT's answers. -/
theorem startAndStopWritingResult : Obligations.StartAndStopWritingResult := by
  unfold Obligations.StartAndStopWritingResult
  intro s tm
  refine ⟨rfl, fun hnever => ?_, fun hempty => ?_, fun b hstart hend hbuf => ?_, fun b hstart hne hdisordered => ?_⟩
  · have hleft : s.setPll { s.pll with writeStart := .never } = s := by rw [← hnever]; rfl
    rw [exec_stopWriting_of_commit (commitTo_never tm hnever), hleft]
  · exact exec_stopWriting_of_commit (commitTo_empty hempty)
  · have hcommit := commitTo_span hstart hend hbuf
    have hexec : exec (.commit tm) s = finish ((commitTo tm s).map fun s => s.setOutcome .none) := rfl
    rw [hexec, hcommit]
    exact ⟨_, _, exec_stopWriting_of_commit hcommit, rfl, rfl⟩
  · show execStopWriting tm s = _
    rw [execStopWriting, stopWritingAt, commitTo_refused hstart hne hdisordered]
    rfl

/-! Words and items (41_write_encoder R170 to R172, 44_write_states R231). -/

/-- A DATA item after terminal count is a byte 0, and the FIFO keeps what it holds. -/
theorem loadItem_data_done {s : State} (htc : s.cfg.tcDone = true) : loadItem .data s = loadByte s.cfg.mode 0 s :=
  if_pos htc

/-- A DATA item takes the FIFO's head. -/
theorem loadItem_data_pop {s : State} {b : Byte} {q : List Byte} (htc : s.cfg.tcDone = false) (hfifo : s.fifo = b :: q) :
    loadItem .data s = loadByte s.cfg.mode b { s with fifo := q } := by
  have hpop : fifoPop s = some (b, s.setFifo q) := by rw [fifoPop, hfifo]
  rw [loadItem, htc, hpop]
  rfl

/-- A DATA item that finds the FIFO empty is a byte 0 and raises the overrun flag. -/
theorem loadItem_data_empty {s : State} (htc : s.cfg.tcDone = false) (hfifo : s.fifo = []) :
    loadItem .data s = loadByte s.cfg.mode 0 (raise flagOverrun s) := by
  have hpop : fifoPop s = none := by rw [fifoPop, hfifo]
  rw [loadItem, htc, hpop]
  rfl

/-- Settles O14: the three operations and the items but DATA by their definitions, DATA by its three equations. -/
theorem wordsAndItemsAreLoaded : Obligations.WordsAndItemsAreLoaded := by
  unfold Obligations.WordsAndItemsAreLoaded
  refine ⟨fun _ _ => rfl, fun _ _ => rfl, fun _ _ => rfl, fun s => ?_⟩
  exact ⟨fun _ => rfl, fun _ => rfl, fun _ => rfl, loadItem_data_done, fun htc _ _ hfifo => loadItem_data_pop htc hfifo,
    loadItem_data_empty, rfl, rfl⟩

end Sys2Proof.Proofs
end

section
/-! The round trip (41_write_encoder R178): on the grid of cells of period `2 * half` each 1 cell is written as one transition,
`half` after the cell's start, and a PLL that stands on the grid reads such a transition without a phase error. -/

namespace Sys2Proof.Proofs

open Sys2Proof.Machine Sys2Proof.Safety Sys2Proof.Laws

/-! The transitions of a list of cells. -/

/-- The centers of the 1 cells among cells of period `2 * half` from the time `t` on. -/
def cellCenters (half : Nat) : Nat → List Bool → List Nat
  | _, [] => []
  | t, b :: bs => (if b then [t + half] else []) ++ cellCenters half (t + 2 * half) bs

theorem mem_cellCenters_cons {half t x : Nat} {b : Bool} {bs : List Bool} :
    x ∈ cellCenters half t (b :: bs) ↔ b = true ∧ x = t + half ∨ x ∈ cellCenters half (t + 2 * half) bs := by
  cases b <;> simp [cellCenters]

/-- A center lies after the start of its cell. -/
theorem lt_of_mem_cellCenters {half t x : Nat} {bs : List Bool} (hhalf : 1 ≤ half) (h : x ∈ cellCenters half t bs) :
    t < x := by
  induction bs generalizing t with
  | nil => cases h
  | cons b bs ih =>
    obtain ⟨-, rfl⟩ | h := mem_cellCenters_cons.1 h
    · omega
    · have := ih h
      omega

/-! Writing. -/

/-- One cell written in write mode, without limit. -/
theorem writeNextBit_cell {par : Params} {half t b : Nat} {bit ok : Bool} {p q : Pll} (hperiod : p.period = 2 * half)
    (hc : p.ctime = .ticks t) (hstart : p.writeStart = .ticks b) (h : p.writeNextBit par bit .never = .ok (ok, q)) :
    q.ctime = .ticks (t + 2 * half) ∧ q.period = 2 * half ∧ q.writeStart = .ticks b ∧
      q.wbuf = p.wbuf ++ if bit then [.ticks (t + half)] else [] := by
  have hcell := writeEnd_ticks hc
  have hcenter := writeCenter_ticks hc
  have hcases := writeNextBit_cases h
  have hhalf : 2 * half / 2 = half := by omega
  rw [enterWrite_of_ticks hstart, hperiod] at hcell hcenter
  rw [enterWrite_of_ticks hstart, hperiod, hcell, hcenter, hhalf] at hcases
  obtain ⟨-, -, hpast⟩ | ⟨-, rfl, rfl⟩ | ⟨-, rfl, -, rfl⟩ := hcases
  · cases hpast
  · exact ⟨rfl, hperiod, hstart, (List.append_nil _).symm⟩
  · exact ⟨rfl, hperiod, hstart, rfl⟩

/-- Cells written in write mode move the cursor over them, and buffer their centers. -/
theorem writeAll_cells {par : Params} {half t b : Nat} {bits : List Bool} {p p' : Pll} (hperiod : p.period = 2 * half)
    (hc : p.ctime = .ticks t) (hstart : p.writeStart = .ticks b) (h : writeAll par bits p = .ok p') :
    p'.ctime = .ticks (t + bits.length * (2 * half)) ∧ p'.wbuf = p.wbuf ++ (cellCenters half t bits).map .ticks := by
  induction bits generalizing p t with
  | nil =>
    cases h
    simpa [cellCenters] using hc
  | cons bit bits ih =>
    obtain ⟨⟨ok, q⟩, hwrite, hrest⟩ := res_bind_ok h
    obtain ⟨hqc, hqperiod, hqstart, hqbuf⟩ := writeNextBit_cell hperiod hc hstart hwrite
    obtain ⟨hend, hbuf⟩ := ih hqperiod hqc hqstart hrest
    constructor
    · rw [hend, List.length_cons, Nat.add_one_mul bits.length]
      congr 1
      omega
    · rw [hbuf, hqbuf]
      cases bit <;> simp [cellCenters]

/-- The first cell written enters write mode: it is the same to have entered it before. -/
theorem writeAll_enterWrite {par : Params} {bits : List Bool} (p : Pll) (hbits : bits ≠ []) :
    writeAll par bits p.enterWrite = writeAll par bits p := by
  obtain ⟨bit, bits, rfl⟩ := List.exists_cons_of_ne_nil hbits
  simp only [writeAll, Pll.writeNextBit, enterWrite_idem]

/-! Reading. -/

/-- The PLL stands at the time `t` on a grid of cells of period `2 * half`. -/
structure OnGrid (half t : Nat) (p : Pll) : Prop where
  ctime : p.ctime = .ticks t
  period : p.period = 2 * half
  phaseAdjust : p.phaseAdjust = 0
  minPeriod : p.minPeriod ≤ p.period
  maxPeriod : p.period ≤ p.maxPeriod

theorem clamp_of_mem {v lo hi : Int} (hlo : lo ≤ v) (hhi : v ≤ hi) : clamp v lo hi = v := by
  rw [clamp, if_neg (by omega), if_neg (by omega)]

theorem OnGrid.cellEnd {half t : Nat} {p : Pll} (h : OnGrid half t p) : p.cellEnd = .ticks (t + 2 * half) :=
  cellEnd_of_sum h.ctime (by rw [h.period, h.phaseAdjust]; omega)

/-- A cell without a transition leaves the PLL on the grid. -/
theorem OnGrid.coast {half t : Nat} {p : Pll} (h : OnGrid half t p) :
    OnGrid half (t + 2 * half) (p.coast (.ticks (t + 2 * half))) :=
  ⟨rfl, h.period, rfl, h.minPeriod, h.maxPeriod⟩

/-- A transition at the center of an even cell has no phase error. -/
theorem OnGrid.lockOn {half t : Nat} {par : Params} {p : Pll} (h : OnGrid half t p) :
    OnGrid half (t + 2 * half) (p.lockOn par (t + half) (t + 2 * half)) := by
  have hdelta : ((t + half : Nat) : Int) - p.center (t + 2 * half) = 0 := by
    rw [Pll.center, h.period]
    omega
  have hperiod : (p.lockOn par (t + half) (t + 2 * half)).period = p.period := by
    have hclamp : clamp (p.period : Int) p.minPeriod p.maxPeriod = p.period :=
      clamp_of_mem (by exact_mod_cast h.minPeriod) (by exact_mod_cast h.maxPeriod)
    simp only [Pll.lockOn, hdelta, mul_zero, Int.zero_tdiv, add_zero, hclamp, Int.toNat_natCast, ite_self]
  have hphase : (p.lockOn par (t + half) (t + 2 * half)).phaseAdjust = 0 := by
    simp only [Pll.lockOn, hdelta, zero_mul, Int.zero_tdiv]
    exact clamp_of_mem (by omega) (by omega)
  exact ⟨rfl, hperiod.trans h.period, hphase, by rw [hperiod]; exact h.minPeriod, by rw [hperiod]; exact h.maxPeriod⟩

/-- MediumNext finds a listed time when none is listed before it (20_memory R71). -/
theorem next_eq_of_first {m : Memory} {t x : Nat} (hm : Memory.wf m = true) (hx : x ∈ m) (htx : t < x)
    (hfirst : ∀ y ∈ m, t < y → x ≤ y) : m.next t = .ticks x := by
  cases hnext : m.next t with
  | never => exact absurd (next_never hnext x hx) htx.not_ge
  | ticks y =>
    obtain ⟨hy, hty⟩ := next_spec hnext
    rw [Nat.le_antisymm (next_least hm hnext x hx htx) (hfirst y hy hty)]

/-- A PLL on the grid reads as 1 the cell with a transition at its center, as 0 the cell with none, and is on the grid after
it. -/
theorem OnGrid.getNextBit {half t : Nat} {par : Params} {m : Memory} {q : Pll} {b : Bool} (h : OnGrid half t q)
    (hhalf : 1 ≤ half) (hm : Memory.wf m = true)
    (hcell : ∀ x : Nat, t < x → x ≤ t + 2 * half → (x ∈ m ↔ b = true ∧ x = t + half)) :
    ∃ q' : Pll, q.getNextBit par (m.after q.ctime) .never = some (b, q') ∧ OnGrid half (t + 2 * half) q' := by
  have hafter : m.after q.ctime = m.next t := by rw [h.ctime]; rfl
  rw [hafter]
  cases b with
  | true =>
    have hcenter : m.next t = .ticks (t + half) := by
      refine next_eq_of_first hm ((hcell _ (by omega) (by omega)).2 ⟨rfl, rfl⟩) (by omega) fun y hy hty => ?_
      by_contra hlt
      have := (hcell y hty (by omega)).1 hy
      omega
    rw [hcenter]
    exact ⟨_, getNextBit_one rfl h.cellEnd (by omega), h.lockOn⟩
  | false =>
    have hedge : m.next t = .never ∨ Time.lt q.cellEnd (m.next t) = true := by
      cases hnext : m.next t with
      | never => exact .inl rfl
      | ticks y =>
        obtain ⟨hy, hty⟩ := next_spec hnext
        right
        rw [h.cellEnd, Time.lt, decide_eq_true_eq]
        by_contra hle
        simpa using (hcell y hty (by omega)).1 hy
    rw [getNextBit_zero rfl hedge, h.cellEnd]
    exact ⟨_, rfl, h.coast⟩

/-- A PLL on the grid reads back cells whose span holds their centers and no other transition. -/
theorem OnGrid.readAll {half t : Nat} {par : Params} {m : Memory} {bits : List Bool} {q : Pll} (h : OnGrid half t q)
    (hhalf : 1 ≤ half) (hm : Memory.wf m = true)
    (hspan : ∀ x : Nat, t < x → x ≤ t + bits.length * (2 * half) → (x ∈ m ↔ x ∈ cellCenters half t bits)) :
    readAll par m bits.length q = bits := by
  induction bits generalizing q t with
  | nil => rfl
  | cons b bits ih =>
    have hlen : t + (b :: bits).length * (2 * half) = t + 2 * half + bits.length * (2 * half) := by
      rw [List.length_cons, Nat.add_one_mul bits.length]
      omega
    rw [hlen] at hspan
    have hcell : ∀ x : Nat, t < x → x ≤ t + 2 * half → (x ∈ m ↔ b = true ∧ x = t + half) := by
      intro x htx hx
      have hlater : x ∉ cellCenters half (t + 2 * half) bits := fun hmem => by
        have := lt_of_mem_cellCenters hhalf hmem
        omega
      rw [hspan x htx (by omega), mem_cellCenters_cons, or_iff_left hlater]
    have hrest : ∀ x : Nat, t + 2 * half < x → x ≤ t + 2 * half + bits.length * (2 * half) →
        (x ∈ m ↔ x ∈ cellCenters half (t + 2 * half) bits) := by
      intro x htx hx
      have hearlier : ¬(b = true ∧ x = t + half) := by omega
      rw [hspan x (by omega) hx, mem_cellCenters_cons, or_iff_right hearlier]
    obtain ⟨q', hread, hgrid⟩ := h.getNextBit (par := par) hhalf hm hcell
    rw [List.length_cons, Safety.readAll, hread]
    exact congrArg (b :: ·) (ih hgrid hrest)

/-! The committed span. -/

/-- MediumWrite of a span leaves in it the times written, and at its end what stood there (20_memory R72). -/
theorem mem_writeSpan_within {m : Memory} {c e x : Nat} (l : List Nat) (hcx : c < x) (hxe : x ≤ e)
    (hend : m.has e = false) : x ∈ m.writeSpan c (.ticks e) l ↔ x ∈ l := by
  rw [mem_writeSpan, or_iff_left]
  rintro ⟨hx, hout⟩
  rcases hxe.lt_or_eq with hlt | rfl
  · simp [inSpan, Time.lt, hcx.le, hlt] at hout
  · simp [Memory.has, hx] at hend

theorem tickTimes_map_ticks (l : List Nat) : tickTimes (l.map .ticks) = l := by
  induction l with
  | nil => rfl
  | cons n l ih => rw [List.map_cons, tickTimes, ih]

/-- Settles O13: the buffer holds the centers of the cells (`writeAll_cells`), the committed span holds them and nothing else
(`mem_writeSpan_within`), and a PLL on the grid reads them back (`OnGrid.readAll`). -/
theorem writtenCellsReadBack : Obligations.WrittenCellsReadBack := by
  unfold Obligations.WrittenCellsReadBack
  intro par m bits half c p q p' hm hhalf hperiod hstart hc hwrite hqc hqperiod hqphase hqmin hqmax hend
  rw [hperiod] at hend ⊢
  have hgrid : OnGrid half c q := ⟨hqc.trans hc, hqperiod.trans hperiod, hqphase, hqmin, hqmax⟩
  by_cases hbits : bits = []
  · subst hbits
    cases hwrite
    exact ⟨by simpa using hc, rfl⟩
  · rw [← writeAll_enterWrite p hbits, enterWrite_of_never hstart] at hwrite
    obtain ⟨hctime, hbuf⟩ := writeAll_cells (p := { p with writeStart := p.ctime, wbuf := [] }) hperiod hc hc hwrite
    rw [hctime, hbuf, List.nil_append, tickTimes_map_ticks]
    exact ⟨rfl, hgrid.readAll hhalf (writeSpan_wf m _ _ _ hm) fun x hcx hx => mem_writeSpan_within _ hcx hx hend⟩

end Sys2Proof.Proofs
end

section
/-! The CRC register (42_crc). What it holds after one bit is known from its bit 0: under a polynomial with a constant term
no two registers, and no two bits, are brought together, which is the detection of a flipped bit (R196). A register fed its
own bits only shifts, which is how a write ends with the register zero (R195). -/

namespace Sys2Proof.Proofs

open Sys2Proof.Machine

theorem crcBits_append (poly c : Word) (as bs : List Bool) :
    crcBits poly c (as ++ bs) = crcBits poly (crcBits poly c as) bs :=
  List.foldl_append

/-! A flipped bit (42_crc R196). -/

/-- A bit is one shift and, when it differs from the bit shifted out, one subtraction of the polynomial (42_crc R190). -/
theorem crcStep_eq_xor (poly c : Word) (b : Bool) :
    crcStep poly c b = (c <<< 1) ^^^ (if c.getLsbD 15 ^^ b then poly else 0) := by
  rw [crcStep]
  split
  · rfl
  · exact BitVec.xor_zero.symm

/-- Bit 0 tells whether the bit fed in differed from the bit shifted out. -/
theorem crcStep_getLsbD_zero {poly : Word} (hpoly : poly.getLsbD 0 = true) (c : Word) (b : Bool) :
    (crcStep poly c b).getLsbD 0 = (c.getLsbD 15 ^^ b) := by
  rw [crcStep_eq_xor]
  cases c.getLsbD 15 ^^ b <;> simp [hpoly]

/-- A shift loses the top bit and no other. -/
theorem eq_of_shiftLeft_one_eq {c d : Word} (hshift : c <<< 1 = d <<< 1) (htop : c.getLsbD 15 = d.getLsbD 15) : c = d := by
  refine BitVec.eq_of_getLsbD_eq fun i hi => ?_
  by_cases hlast : i = 15
  · rw [hlast, htop]
  · have hlt : i + 1 < 16 := by omega
    simpa [hlt, BitVec.getLsbD_eq_getElem hi] using congrArg (fun w : Word => w.getLsbD (i + 1)) hshift

/-- The same bit leaves different registers different. -/
theorem crcStep_injective {poly : Word} (hpoly : poly.getLsbD 0 = true) (b : Bool) :
    Function.Injective fun c => crcStep poly c b := by
  intro c d (h : crcStep poly c b = crcStep poly d b)
  have htop : c.getLsbD 15 = d.getLsbD 15 := by
    have hzero := congrArg (fun w : Word => w.getLsbD 0) h
    simpa only [crcStep_getLsbD_zero hpoly, Bool.xor_left_inj] using hzero
  rw [crcStep_eq_xor, crcStep_eq_xor, htop] at h
  exact eq_of_shiftLeft_one_eq ((BitVec.xor_left_inj _).1 h) htop

/-- The same bits leave different registers different. -/
theorem crcBits_injective {poly : Word} (hpoly : poly.getLsbD 0 = true) (bits : List Bool) :
    Function.Injective fun c => crcBits poly c bits := by
  induction bits with
  | nil => exact fun _ _ h => h
  | cons b bits ih => exact ih.comp (crcStep_injective hpoly b)

/-- A bit and its opposite leave different registers. -/
theorem crcStep_ne_crcStep_not {poly : Word} (hpoly : poly.getLsbD 0 = true) (c : Word) (b : Bool) :
    crcStep poly c b ≠ crcStep poly c (!b) := by
  intro h
  have hzero := congrArg (fun w : Word => w.getLsbD 0) h
  simp only [crcStep_getLsbD_zero hpoly, Bool.xor_not, Bool.eq_not_self] at hzero

/-- One bit flipped anywhere changes the residue, under any polynomial with a constant term. -/
theorem crcBits_flip_ne {poly : Word} (hpoly : poly.getLsbD 0 = true) (c : Word) (before after : List Bool) (b : Bool) :
    crcBits poly c (before ++ b :: after) ≠ crcBits poly c (before ++ (!b) :: after) := by
  rw [crcBits_append, crcBits_append]
  exact (crcBits_injective hpoly after).ne (crcStep_ne_crcStep_not hpoly _ b)

/-- CRC_BYTE divides bit 7 first (42_crc R191). -/
theorem crcOfByte_eq_foldl (poly c : Word) (v : Byte) :
    crcOfByte poly c v = [7, 6, 5, 4, 3, 2, 1, 0].foldl (fun c k => crcStep poly c (v.getLsbD k)) c :=
  rfl

/-- Settles O15: the three operations by their definitions, the flipped bit by `crcBits_flip_ne`. -/
theorem crcOperationsResult : Obligations.CrcOperationsResult := by
  unfold Obligations.CrcOperationsResult
  refine ⟨fun _ => rfl, fun _ _ => rfl, fun s v => ?_, crcBits_flip_ne (by decide)⟩
  rw [← crcOfByte_eq_foldl]
  rfl

/-! The CRC bytes of a write (42_crc R195). -/

/-- The bit shifted out, fed in, cancels: the polynomial is not subtracted. -/
theorem crcStep_top (poly c : Word) : crcStep poly c (c.getLsbD 15) = c <<< 1 := by
  rw [crcStep, Bool.xor_self, if_neg Bool.false_ne_true]

/-- A register fed its own bits from the top down is shifted by as many. -/
theorem crcBits_ownBits (poly c : Word) {n : Nat} (hn : n ≤ 16) :
    crcBits poly c ((List.range n).map fun i => c.getLsbD (15 - i)) = c <<< n := by
  induction n with
  | zero => exact (BitVec.shiftLeft_zero c).symm
  | succ n ih =>
    have htop : (c <<< n).getLsbD 15 = c.getLsbD (15 - n) := by
      have hle : ¬15 < n := by omega
      have hlt : 15 - n < 16 := by omega
      simp [hle, BitVec.getLsbD_eq_getElem hlt]
    rw [List.range_succ, List.map_append, crcBits_append, ih (by omega), BitVec.shiftLeft_add]
    show crcStep poly (c <<< n) (c.getLsbD (15 - n)) = c <<< n <<< 1
    rw [← htop, crcStep_top]

theorem bitsOf_highByte (c : Word) :
    bitsOf (c.extractLsb' 8 8) = (List.range 8).map fun i => c.getLsbD (15 - i) := by
  simp [bitsOf, List.range_succ]

theorem crcOfByte_highByte (poly c : Word) : crcOfByte poly c (c.extractLsb' 8 8) = c <<< 8 := by
  rw [crcOfByte, bitsOf_highByte, crcBits_ownBits poly c (by omega)]

/-- The high byte of the shifted register is its old low byte. -/
theorem highByte_shiftLeft (c : Word) : (c <<< 8).extractLsb' 8 8 = c.extractLsb' 0 8 := by
  ext i hi
  have hlt : 8 + i < 16 := by omega
  have hi16 : i < 16 := by omega
  simp [hlt, BitVec.getLsbD_eq_getElem hi16]

/-- Settles O16: both CRC bytes are the high byte of the register they are fed to (`crcOfByte_highByte`). -/
theorem crcAbsorbsItsOwnBytes : Obligations.CrcAbsorbsItsOwnBytes := by
  unfold Obligations.CrcAbsorbsItsOwnBytes
  refine ⟨fun _ => rfl, fun poly c => ⟨crcOfByte_highByte poly c, highByte_shiftLeft c, ?_⟩⟩
  calc crcOfByte poly (crcOfByte poly c (c.extractLsb' 8 8)) (c.extractLsb' 0 8)
      = crcOfByte poly (c <<< 8) ((c <<< 8).extractLsb' 8 8) := by rw [crcOfByte_highByte, highByte_shiftLeft]
    _ = c <<< 8 <<< 8 := crcOfByte_highByte poly (c <<< 8)
    _ = 0 := (BitVec.shiftLeft_add c 8 8).symm.trans (BitVec.shiftLeft_eq_zero le_rfl)

end Sys2Proof.Proofs
end

section
/-! State rows (43_read_states R201, log 1): a row runs one turn of the rule of its state, or nothing; and the two last steps of a
rule, a LIVE_DELAY and a CHECKPOINT. -/

namespace Sys2Proof.Proofs

open Sys2Proof.Machine Sys2Proof.Safety Sys2Proof.Laws

theorem exec_stateRow {st : LiveState} (limit : Time) (s : State) (hst : st ≠ .idle) :
    exec (stateRow limit st) s = finish (withOutcome (inState st (stateRule st none limit) s)) := by
  cases st with
  | idle => exact absurd rfl hst
  | _ => rfl

/-- The turn of a state row in its state. -/
theorem exec_stateRow_in {st : LiveState} {s : State} (limit : Time) (hrow : st ≠ .idle) (hst : s.live.state = st)
    (hn : s.live.nextState = none) :
    exec (stateRow limit st) s = finish (withOutcome (stateRule st none limit s)) := by
  rw [exec_stateRow limit s hrow, inState_in hst hn]

theorem rowNeedsState_stateRow {st : LiveState} (limit : Time) (s : State) (hrow : st ≠ .idle) :
    RowNeedsState (stateRow limit st) st s := by
  intro hout
  rw [exec_stateRow limit s hrow, inState_out hout]
  rfl

/-- A rule that ends with LIVE_DELAY, its live context being `l` (45_live_control R266). -/
theorem thenDelay_defersTo (st : LiveState) (l : Live) (c : State) :
    DefersTo .delayed st l c (finish (withOutcome (thenDelay st { c with live := l }))) := by
  have hlast : withOutcome (thenDelay st { c with live := l }) =
      (delayTo st { c with live := l }).map fun t => t.setOutcome .delayed := by
    rw [withOutcome, thenDelay]
    cases delayTo st { c with live := l } <;> rfl
  rw [hlast]
  exact defersTo_delayTo .delayed st { c with live := l }

/-- A rule that ends the run with a flag raised (60_exceptions R352). -/
theorem endWith_defersTo (f : BitVec 3) (c : State) :
    DefersTo .delayed .idle { c.live with flags := c.live.flags ||| f } c (finish (withOutcome (endWith f c))) :=
  thenDelay_defersTo .idle _ c

/-- LIVE_DELAY at a confirmed time outside write mode: the transition is made and copied, and nothing else. -/
theorem defersTo_arrives {oc : OpOutcome} {st : LiveState} {l : Live} {c : State}
    {out : Host.Outcome State Fault Refusal} (h : DefersTo oc st l c out) (htm : l.tm = .ticks c.now)
    (hnever : c.pll.writeStart = .never) :
    out = .next { c with outcome := oc, live := arrived st l, snap := ⟨arrived st l, c.pll⟩ } := by
  obtain ⟨-, -, hnow, -⟩ := h
  obtain ⟨harrives, -⟩ := hnow htm
  have hcommit : exec (.commit l.tm) { c with live := l } = .next (State.setOutcome { c with live := l } .none) := by
    show finish ((commitTo l.tm { c with live := l }).map fun t => t.setOutcome .none) = _
    rw [commitTo_never _ (by exact hnever)]
    rfl
  have hleft : c.pll = if st = .idle then { c.pll with writeStart := .never } else c.pll := by
    rw [← hnever, ite_self]
  have hmade := harrives _ c.pll hcommit hleft
  exact hmade

/-- CHECKPOINT at a confirmed time is a live drive's COMMIT and the copy of what it leaves (45_live_control R264). -/
theorem takeCheckpoint_confirmed {s : State} (htm : s.live.tm = .ticks s.now) :
    takeCheckpoint s = (if s.live.drive.isSome then commitTo s.live.tm s else .ok s).map fun t =>
      { t with snap := ⟨t.live, t.pll⟩ } := by
  simp only [takeCheckpoint, htm, le_refl, if_true]

/-- A rule that ends with CHECKPOINT at a confirmed time (45_live_control R264). -/
theorem takeCheckpoint_checkpointsAs {s : State} (htm : s.live.tm = .ticks s.now) :
    CheckpointsAs s (finish (withOutcome ((takeCheckpoint s).map fun t => (t, .cont)))) := by
  have hcommit : exec (.commit s.live.tm) s = finish ((commitTo s.live.tm s).map fun t => t.setOutcome .none) := rfl
  rw [takeCheckpoint_confirmed htm]
  refine ⟨fun hnothing => ?_, fun hdrive => ?_⟩
  · have hkept : (if s.live.drive.isSome then commitTo s.live.tm s else .ok s) = .ok s := by
      rcases hnothing with hdrive | hstart | hstart
      · rw [hdrive]
        rfl
      · rw [commitTo_never _ hstart, ite_self]
      · rw [commitTo_empty hstart, ite_self]
    rw [hkept]
    rfl
  · rw [if_pos (Option.isSome_iff_ne_none.2 hdrive), hcommit]
    cases commitTo s.live.tm s with
    | ok t =>
      refine ⟨fun w hw => ?_, fun r hr => by cases hr⟩
      cases hw
      rfl
    | error e =>
      refine ⟨fun w hw => ?_, fun r hr => hr⟩
      obtain ⟨t, ht, -⟩ := finish_map_next hw
      cases ht

end Sys2Proof.Proofs
end

section
/-! LIVE_RUN (45_live_control R263): where nothing runs, the limit it takes when it is given none, and its loop as an equation,
which needs no count of turns because a run has more of them than it can take (log 12). -/

namespace Sys2Proof.Proofs

open Sys2Proof.Machine Sys2Proof.Safety Sys2Proof.Laws

theorem exec_liveRun_notRunning {s : State} (limit : Time) (h : s.live.state = .idle ∨ s.live.nextState ≠ none) :
    exec (.liveRun limit) s = .next (s.setOutcome .notRunning) := by
  have hto : runTo limit s = .ok (s, .notRunning) := if_pos h
  show finish (withOutcome (runTo limit s)) = _
  rw [hto]
  rfl

/-- A finite limit is the loop's own. -/
theorem runTo_ticks {n : Nat} {s : State} (hst : s.live.state ≠ .idle) (hn : s.live.nextState = none) :
    runTo (.ticks n) s = runLoop (runBudget n s) (.ticks n) s := by
  exact if_neg (by simp [hst, hn])

/-- Without limit LIVE_RUN runs to the next index pulse. -/
theorem runTo_never_index {n : Nat} {s : State} (h : mediumNextIndex s s.now = .ticks n) :
    runTo .never s = runTo (.ticks n) s := by
  simp only [runTo, h]

/-- Without limit and with no index pulse ahead it runs to the safety net, with a wake-up there. -/
theorem runTo_never_safetyNet {s : State} (h : mediumNextIndex s s.now = .never) (hst : s.live.state ≠ .idle)
    (hn : s.live.nextState = none) :
    runTo .never s = runTo (.ticks (s.now + s.par.safetyNet))
      { s with wakeups := Memory.insert s.wakeups (s.now + s.par.safetyNet) } := by
  rw [runTo_ticks (by exact hst) (by exact hn)]
  unfold runTo
  rw [if_neg (by simp [hst, hn]), h]
  rfl

/-- A turn after which the loop goes on leaves fewer turns to take, from a cursor where cells have positive length. -/
theorem turnsLeft_lt {n c : Nat} {s : State} {r : State × OpOutcome} (hi : s.live.state ≠ .idle)
    (hn : s.live.nextState = none) (hp : PllSound s.pll) (hc : s.pll.ctime = .ticks c)
    (h : stateRule s.live.state none (.ticks n) s = .ok r) (hagain : RunsAgain r) :
    r.1.live.nextState = none ∧ PllSound r.1.pll ∧ ∃ e : Nat, r.1.pll.ctime = .ticks e ∧
      turnsLeft n e r.1.live.state < turnsLeft n c s.live.state := by
  obtain ⟨hpending, ⟨hcell, hsound, e, he, hce, hen⟩ | ⟨hload, ⟨hsound, hcursor⟩, hfollows⟩⟩ :=
    turn_of_rule hi hn hp hc h hagain
  · refine ⟨hpending, hsound, e, he, ?_⟩
    simp only [turnsLeft, if_neg hi, hcell, if_true]
    split_ifs <;> omega
  · refine ⟨hpending, hsound, c, hcursor.trans hc, ?_⟩
    simp only [turnsLeft, if_neg hi, hload, Bool.false_eq_true, if_false]
    rcases hfollows with hcell | hidle
    · simp only [hcell, if_true]
      split_ifs <;> omega
    · simp only [hidle, if_true]
      omega

/-- The loop with turns enough for the run from `s` is LIVE_RUN from `s`, and in IDLE it ends. -/
theorem runLoop_enough {n c f : Nat} {s : State} (hn : s.live.nextState = none) (hp : PllSound s.pll)
    (hc : s.pll.ctime = .ticks c) (hf : turnsLeft n c s.live.state ≤ f) :
    (s.live.state ≠ .idle → runLoop f (.ticks n) s = runTo (.ticks n) s) ∧
    (s.live.state = .idle → runLoop f (.ticks n) s = .ok (s, .idle)) := by
  refine ⟨fun hst => ?_, fun hst => ?_⟩
  · rw [runTo_ticks hst hn]
    exact runLoop_fuel n f _ s c hn hp hc hf (Nat.le_of_succ_le (runBudget_enough hp hc))
  · obtain ⟨f, rfl⟩ : ∃ g, f = g + 1 := Nat.exists_eq_add_one.2 (lt_of_lt_of_le (by simp [turnsLeft, hst]) hf)
    rw [runLoop, hst]
    rfl

/-- LIVE_RUN's loop as an equation: a turn, and then LIVE_RUN from the state reached, or the end. -/
theorem runTo_turn {n c : Nat} {s : State} (hst : s.live.state ≠ .idle) (hn : s.live.nextState = none)
    (hp : PllSound s.pll) (hc : s.pll.ctime = .ticks c) :
    (∀ r : State × OpOutcome, stateRule s.live.state none (.ticks n) s = .ok r →
      (RunsAgain r → (r.1.live.state ≠ .idle → runTo (.ticks n) s = runTo (.ticks n) r.1) ∧
        (r.1.live.state = .idle → runTo (.ticks n) s = .ok (r.1, .idle))) ∧
      (¬RunsAgain r → runTo (.ticks n) s = .ok r)) ∧
    (∀ e : Stop, stateRule s.live.state none (.ticks n) s = .error e → runTo (.ticks n) s = .error e) := by
  have hbudget := runBudget_enough (n := n) hp hc
  obtain ⟨f, hf⟩ : ∃ f, runBudget n s = f + 1 := Nat.exists_eq_add_one.2 (Nat.lt_of_lt_of_le (Nat.succ_pos _) hbudget)
  rw [runTo_ticks hst hn, hf, runLoop]
  refine ⟨fun r hr => ?_, fun e he => by rw [he]⟩
  rw [hr]
  refine ⟨fun hagain => ?_, fun hends => if_neg hends⟩
  obtain ⟨hpending, hsound, e, he, hlt⟩ := turnsLeft_lt hst hn hp hc hr hagain
  obtain ⟨hruns, hidle⟩ := runLoop_enough (n := n) (f := f) hpending hsound he (by omega)
  exact ⟨fun h => (if_pos hagain).trans (hruns h), fun h => (if_pos hagain).trans (hidle h)⟩

/-- Settles O28: LIVE_RUN's limits by `runTo_never_index` and `runTo_never_safetyNet`, its loop by `runTo_turn`. -/
theorem liveRunResult : Obligations.LiveRunResult := by
  unfold Obligations.LiveRunResult
  have hexec : ∀ (limit : Time) (s : State), exec (.liveRun limit) s = finish (withOutcome (runTo limit s)) :=
    fun _ _ => rfl
  refine ⟨fun s limit => ⟨rfl, exec_liveRun_notRunning limit, fun n hindex => ?_, fun hindex hst hn => ?_⟩, ?_⟩
  · rw [hexec, hexec, runTo_never_index hindex]
  · rw [hexec, hexec, runTo_never_safetyNet hindex hst hn]
  · rintro s _ n c rfl hst hn hp hc
    obtain ⟨hturn, hstop⟩ := runTo_turn (n := n) hst hn hp hc
    refine ⟨exec_stateRow_in _ hst rfl hn, ?_, fun e he => by rw [hexec, hstop e he]; rfl⟩
    rintro t o hr _ rfl
    obtain ⟨hgoesOn, hends⟩ := hturn (t, o) hr
    simp only [hexec]
    refine ⟨fun hagain hrun => ?_, fun hagain hidle => ?_, fun hend => ?_⟩
    · rw [(hgoesOn hagain).1 hrun]
    · rw [(hgoesOn hagain).2 hidle]
      rfl
    · rw [hends hend]
      rfl

end Sys2Proof.Proofs
end

section
/-! The read states (43_read_states R200 to R208): one cell in and one cell out, and the turn of each state's rule, answer by
answer of the test it makes on the cell just read. -/

namespace Sys2Proof.Proofs

open Sys2Proof.Machine Sys2Proof.Safety Sys2Proof.Laws

/-! One cell. -/

/-- What a cell moves in the live context, with the cell as a number (43_read_states R200). -/
theorem shiftIn_eq (par : Params) (b : Bool) (tm : Time) (l : Live) :
    l.shiftIn par b tm = { l with
      tm := tm
      shiftReg := l.shiftReg <<< 1 ||| (if b then 1 else 0)
      dataReg := if l.bitCounter % 2 = 1 then l.dataReg <<< 1 ||| (if b then 1 else 0) else l.dataReg
      crc := if l.bitCounter % 2 = 1 then crcStep par.crcPoly l.crc b else l.crc
      bitCounter := (l.bitCounter + 1) % 2 ^ par.counterBits } := by
  cases b <;> rfl

/-- Settles O17: READ_ONE_BIT by the PLL's answer, WRITE_ONE_BIT by the write buffer's. -/
theorem oneCellResult : Obligations.OneCellResult := by
  unfold Obligations.OneCellResult
  refine ⟨fun s limit => ⟨fun hbit => ?_, fun b p hbit => ?_⟩, ?_⟩
  · show execReadOneBit limit s = _
    rw [execReadOneBit, readCell, edgeOf, hbit]
  · show execReadOneBit limit s = _
    simp only [execReadOneBit, readCell, edgeOf, hbit, shiftIn_eq]
    rfl
  · rintro s limit _ rfl
    have hexec : exec (.writeOneBit limit) s =
        finish ((writeCell limit s).map fun x => x.2.setOutcome (if x.1 then .cont1 else .suspend)) := rfl
    rw [hexec, writeCell]
    exact ⟨fun p hexceeds => by rw [hexceeds]; rfl, fun p hfits => by rw [hfits]; rfl, fun hfault => by rw [hfault]; rfl⟩

/-! The ID field. -/

/-- Settles O18: the branches of R202 and R203, in the order of their tests. -/
theorem headerSearchResult : Obligations.HeaderSearchResult := by
  unfold Obligations.HeaderSearchResult
  refine ⟨fun s limit => ⟨rowNeedsState_stateRow (st := .searchAddressMarkHeader) limit s (by decide), fun hst hn => ?_⟩,
    fun s limit => ⟨rowNeedsState_stateRow (st := .readHeaderBlockHeader) limit s (by decide), fun hst hn => ?_⟩⟩
  · have hturn : exec (.searchAddressMarkHeader limit) s = finish (withOutcome (ruleSearchHeader none limit s)) :=
      exec_stateRow_in limit (by decide) hst hn
    rw [hturn, ruleSearchHeader]
    refine ⟨fun hnone => by rw [hnone]; rfl, ?_⟩
    rintro c _ hread rfl
    rw [hread]
    dsimp only
    refine ⟨fun hmode hmark => ?_, fun hmode hmark => ?_, fun hmfm hfm => ?_⟩
    · rw [if_pos ⟨hmode, hmark⟩]
      rfl
    · rw [if_neg (by simp [hmode]), if_pos ⟨hmode, hmark⟩]
      rfl
    · rw [if_neg hmfm, if_neg hfm]
      rfl
  · have hturn : exec (.readHeaderBlockHeader limit) s = finish (withOutcome (ruleHeaderHeader none limit s)) :=
      exec_stateRow_in limit (by decide) hst hn
    rw [hturn, ruleHeaderHeader]
    refine ⟨fun hfm => by rw [if_pos hfm]; rfl, fun hmfm => ?_⟩
    rw [if_neg (by simp [hmfm])]
    refine ⟨fun hnone => by rw [hnone]; rfl, fun c hread => ?_⟩
    rw [hread]
    dsimp only
    refine ⟨fun hpart => ?_, fun hwhole hsync => ?_, fun hwhole hlast hmark => ?_, fun hwhole hlast hmark => ?_⟩
    · rw [if_pos hpart]
      rfl
    · rw [if_neg (not_not.2 hwhole), if_pos hsync, ite_not]
      split <;> rfl
    · rw [if_neg (not_not.2 hwhole), if_neg hlast.not_gt, if_neg (not_not.2 hmark)]
      rfl
    · rw [if_neg (not_not.2 hwhole), if_neg hlast.not_gt, if_pos hmark]
      rfl

/-- Settles O19: a byte completed is stored, and the sixth is LIVE_DELAY's (`thenDelay_defersTo`). -/
theorem readIdResult : Obligations.ReadIdResult := by
  unfold Obligations.ReadIdResult
  refine fun s limit => ⟨rowNeedsState_stateRow (st := .readIdBlock) limit s (by decide), fun hst hn => ?_⟩
  have hturn : exec (.readIdBlock limit) s = finish (withOutcome (ruleReadId none limit s)) :=
    exec_stateRow_in limit (by decide) hst hn
  rw [hturn, ruleReadId]
  refine ⟨fun hnone => by rw [hnone]; rfl, fun c hread => ?_⟩
  rw [hread]
  dsimp only
  refine ⟨fun hpart => by rw [if_pos hpart]; rfl, ?_⟩
  rintro hwhole _ _ rfl rfl
  rw [if_neg (not_not.2 hwhole)]
  refine ⟨fun hmore => by rw [if_neg hmore]; rfl, fun hsixth => ?_⟩
  rw [if_pos hsixth]
  exact thenDelay_defersTo .idle _ c

/-! The data field. -/

/-- Settles O20: the window's end is tested first, then its opening, then the marks (60_exceptions R360). -/
theorem searchDataResult : Obligations.SearchDataResult := by
  unfold Obligations.SearchDataResult
  refine fun s limit => ⟨rowNeedsState_stateRow (st := .searchAddressMarkData) limit s (by decide), fun hst hn => ?_⟩
  have hturn : exec (.searchAddressMarkData limit) s = finish (withOutcome (ruleSearchData none limit s)) :=
    exec_stateRow_in limit (by decide) hst hn
  rw [hturn, ruleSearchData]
  refine ⟨fun hnone => by rw [hnone]; rfl, ?_⟩
  rintro c _ _ _ hread rfl rfl rfl
  rw [hread]
  dsimp only
  refine ⟨fun hpast => ?_, fun hearly => ?_, fun hopen hclose => ?_⟩
  · rw [if_pos hpast]
    exact endWith_defersTo flagDataMarkMissing c
  · rw [if_neg (by omega), if_pos hearly]
    rfl
  · rw [if_neg hclose.not_gt, if_neg hopen.not_gt]
    refine ⟨fun hmode hmark => ?_, fun hmode hmark => ?_, fun hmode hmark hne => ?_, fun hmfm hfm => ?_⟩
    · rw [if_pos ⟨hmode, hmark⟩]
      rfl
    · rw [if_neg (by simp [hmode]), if_pos ⟨hmode, hmark⟩]
      rfl
    · rw [if_neg (by simp [hmode]), if_neg (by simp [hmark, hne]), if_pos ⟨hmode, hmark⟩]
      rfl
    · rw [if_neg hmfm, if_neg fun h => hfm ⟨h.1, .inl h.2⟩, if_neg fun h => hfm ⟨h.1, .inr h.2⟩]
      rfl

/-- Settles O21: the sync words first, then the mark byte's three answers; a missing mark is LIVE_DELAY's
(`endWith_defersTo`). -/
theorem dataMarkResult : Obligations.DataMarkResult := by
  unfold Obligations.DataMarkResult
  refine fun s limit => ⟨rowNeedsState_stateRow (st := .readDataBlockHeader) limit s (by decide), fun hst hn => ?_⟩
  have hturn : exec (.readDataBlockHeader limit) s = finish (withOutcome (ruleDataHeader none limit s)) :=
    exec_stateRow_in limit (by decide) hst hn
  rw [hturn, ruleDataHeader]
  refine ⟨fun hfm => by rw [if_pos hfm]; rfl, fun hmfm => ?_⟩
  rw [if_neg (by simp [hmfm])]
  refine ⟨fun hnone => by rw [hnone]; rfl, ?_⟩
  rintro c _ _ hread rfl rfl
  rw [hread]
  dsimp only
  refine ⟨fun hgoesOn => ?_, fun hwhole hmark hdata => ?_, fun hwhole hmark hdeleted hne => ?_, ?_⟩
  · by_cases hpart : c.live.bitCounter % 16 ≠ 0
    · rw [if_pos hpart]
      rfl
    · obtain ⟨hsync, hword⟩ := hgoesOn.resolve_left hpart
      rw [if_neg hpart, if_pos hsync, if_neg (not_not.2 hword)]
      rfl
  · rw [if_neg (not_not.2 hwhole), if_neg hmark, if_pos hdata]
    rfl
  · rw [if_neg (not_not.2 hwhole), if_neg hmark, if_neg (by rw [hdeleted]; exact hne), if_pos hdeleted]
    rfl
  · rintro ⟨hwhole, ⟨hsync, hword⟩ | ⟨hmark, hdata, hdeleted⟩⟩
    · rw [if_neg (not_not.2 hwhole), if_pos hsync, if_pos hword]
      exact endWith_defersTo flagDataMarkMissing c
    · rw [if_neg (not_not.2 hwhole), if_neg hmark, if_neg hdata, if_neg hdeleted]
      exact endWith_defersTo flagDataMarkMissing c

/-- Settles O22: a byte completed is LIVE_DELAY's (`thenDelay_defersTo`), the hand-over CHECKPOINT's
(`takeCheckpoint_checkpointsAs`), an overrun `endWith_defersTo`'s. -/
theorem sectorDataResult : Obligations.SectorDataResult := by
  unfold Obligations.SectorDataResult
  refine ⟨fun s limit => ⟨rowNeedsState_stateRow (st := .readSectorData) limit s (by decide), fun hst hn => ?_⟩,
    fun s limit => ⟨rowNeedsState_stateRow (st := .readSectorDataByte) limit s (by decide), fun hst hn => ?_⟩⟩
  · have hturn : exec (.readSectorData limit) s = finish (withOutcome (ruleSectorData none limit s)) :=
      exec_stateRow_in limit (by decide) hst hn
    rw [hturn, ruleSectorData]
    refine ⟨fun hnone => by rw [hnone]; rfl, fun c hread => ?_⟩
    rw [hread]
    dsimp only
    refine ⟨fun hpart => by rw [if_pos hpart]; rfl, ?_⟩
    rintro hwhole _ rfl
    rw [if_neg (not_not.2 hwhole)]
    refine ⟨fun hdata => ?_, fun hlast => ?_, fun hcrc hfirst => ?_⟩
    · rw [if_pos hdata]
      exact thenDelay_defersTo .readSectorDataByte c.live c
    · rw [if_neg (by omega), if_pos hlast]
      exact thenDelay_defersTo .idle c.live c
    · rw [if_neg hcrc.not_gt, if_neg hfirst]
      rfl
  · have hturn : exec (.readSectorDataByte limit) s = finish (withOutcome (ruleSectorDataByte s)) :=
      exec_stateRow_in limit (by decide) hst hn
    rw [hturn, ruleSectorDataByte, confirmed]
    refine ⟨fun htm => by rw [if_neg htm]; rfl, ?_⟩
    rintro htm _ _ rfl rfl
    rw [if_pos htm]
    refine ⟨fun htc => ?_, fun htc hroom => ?_, fun htc hfull => ?_⟩
    · rw [if_pos htc]
      exact takeCheckpoint_checkpointsAs (s := goTo .readSectorData s) htm
    · rw [htc, if_neg Bool.false_ne_true, fifoPush_room hroom]
      exact takeCheckpoint_checkpointsAs (s := goTo .readSectorData (s.setFifo (s.fifo ++ [s.live.dataReg]))) htm
    · rw [htc, if_neg Bool.false_ne_true, fifoPush_full hfull]
      have hends := endWith_defersTo flagOverrun s
      exact ⟨hends, defersTo_arrives hends htm⟩

end Sys2Proof.Proofs
end

section
/-! The write states (44_write_states R231 to R243): what the item tables hold, run by run; a load state is a load and a
CHECKPOINT, an emit state a cell and, after sixteen, a LIVE_DELAY. -/

namespace Sys2Proof.Proofs

open Sys2Proof.Machine Sys2Proof.Safety Sys2Proof.Laws

/-! The item tables (44_write_states R233, R236, R239). -/

/-- One run of a table whose first item has number `p`: `P` says that item `k` lies in it. -/
theorem itemAt_run {n p k : Nat} {i e : Item} {rest : List (Nat × Item)} {P : Prop} [Decidable P] (hp : p ≤ k)
    (hrun : p ≤ k → (k < p + n ↔ P)) (hrest : p + n ≤ k → itemAt rest (k - (p + n)) = e) :
    itemAt ((n, i) :: rest) (k - p) = if P then i else e := by
  rw [itemAt]
  have hin : k - p < n ↔ P := (by omega : k - p < n ↔ k < p + n).trans (hrun hp)
  by_cases hP : P
  · rw [if_pos (hin.2 hP), if_pos hP]
  · rw [if_neg (mt hin.1 hP), if_neg hP, Nat.sub_sub]
    exact hrest (not_lt.1 (mt (hrun hp).1 hP))

/-- The last run of a table, for the numbers the table has. -/
theorem itemAt_lastRun {n p k : Nat} {i : Item} (hp : p ≤ k) (hk : k < p + n) : itemAt [(n, i)] (k - p) = i := by
  rw [itemAt, if_pos (by omega)]

section Tables
variable {par : Params} {cfg : Cfg}

theorem sectorRuns_mfm (hmode : cfg.mode = .mfm) (hsync : par.mfmSyncCount = 3) :
    sectorRuns par cfg = [(par.syncLen.mfm, .fill 0), (1, .rawSeed par.syncMfm), (2, .raw par.syncMfm),
      (1, .fill (if cfg.damDeleted then par.amDdata else par.amData)), (cfg.sectorSize, .data), (2, .crc),
      (par.postGapLen, .fill par.gapFill.mfm)] := by
  simp only [sectorRuns, markRuns, hmode, hsync, PerMode.get]
  rfl

theorem sectorRuns_fm (hmode : cfg.mode = .fm) :
    sectorRuns par cfg = [(par.syncLen.fm, .fill 0),
      (1, .rawSeed (if cfg.damDeleted then par.fmDdam else par.fmDam)), (cfg.sectorSize, .data), (2, .crc),
      (par.postGapLen, .fill par.gapFill.fm)] := by
  simp only [sectorRuns, markRuns, hmode, PerMode.get]
  rfl

theorem formatRuns_mfm (hmode : cfg.mode = .mfm) (hsync : par.mfmSyncCount = 3) :
    formatRuns par cfg = [(par.syncLen.mfm, .fill 0), (1, .rawSeed par.syncMfm), (2, .raw par.syncMfm),
      (1, .fill par.amId), (4, .data), (2, .crc), (par.gap2Len.mfm, .fill par.gapFill.mfm),
      (par.syncLen.mfm, .fill 0), (1, .rawSeed par.syncMfm), (2, .raw par.syncMfm), (1, .fill par.amData),
      (cfg.sectorSize, .fill cfg.fmtFill), (2, .crc), (cfg.fmtGap3.toNat, .fill par.gapFill.mfm)] := by
  simp only [formatRuns, markRuns, hmode, hsync, PerMode.get]
  rfl

theorem formatRuns_fm (hmode : cfg.mode = .fm) :
    formatRuns par cfg = [(par.syncLen.fm, .fill 0), (1, .rawSeed par.syncFmId), (4, .data), (2, .crc),
      (par.gap2Len.fm, .fill par.gapFill.fm), (par.syncLen.fm, .fill 0), (1, .rawSeed par.fmDam),
      (cfg.sectorSize, .fill cfg.fmtFill), (2, .crc), (cfg.fmtGap3.toNat, .fill par.gapFill.fm)] := by
  simp only [formatRuns, markRuns, hmode, PerMode.get]
  rfl

theorem preRuns_mfm :
    preRuns par .mfm = [(par.gap4aLen.mfm, .fill par.gapFill.mfm), (par.syncLen.mfm, .fill 0), (3, .raw par.mfmIam),
      (1, .fill par.amIndex), (par.gap1Len.mfm, .fill par.gapFill.mfm)] := rfl

theorem preRuns_fm :
    preRuns par .fm = [(par.gap4aLen.fm, .fill par.gapFill.fm), (par.syncLen.fm, .fill 0), (1, .raw par.fmIam),
      (par.gap1Len.fm, .fill par.gapFill.fm)] := rfl

theorem preLen_mfm : preLen par .mfm = par.gap4aLen.mfm + par.syncLen.mfm + 4 + par.gap1Len.mfm := by
  simp only [preLen, itemCount, preRuns_mfm, List.map, List.sum_cons, List.sum_nil]
  omega

theorem preLen_fm : preLen par .fm = par.gap4aLen.fm + par.syncLen.fm + 1 + par.gap1Len.fm := by
  simp only [preLen, itemCount, preRuns_fm, List.map, List.sum_cons, List.sum_nil]
  omega

theorem itemLen_mfm (hmode : cfg.mode = .mfm) (hsync : par.mfmSyncCount = 3) :
    itemLen par cfg = 2 * par.syncLen.mfm + 16 + par.gap2Len.mfm + cfg.sectorSize + cfg.fmtGap3.toNat := by
  simp only [itemLen, itemCount, formatRuns_mfm hmode hsync, List.map, List.sum_cons, List.sum_nil]
  omega

theorem itemLen_fm (hmode : cfg.mode = .fm) :
    itemLen par cfg = 2 * par.syncLen.fm + 10 + par.gap2Len.fm + cfg.sectorSize + cfg.fmtGap3.toNat := by
  simp only [itemLen, itemCount, formatRuns_fm hmode, List.map, List.sum_cons, List.sum_nil]
  omega

end Tables

/-- Settles O26: each table is walked run by run (`itemAt_run`); where a run ends in the statement is the sum of the runs so
far. -/
theorem writeTablesResult : Obligations.WriteTablesResult := by
  unfold Obligations.WriteTablesResult
  rintro par cfg k _ n _ _ _ _ _ _ hsync rfl hn rfl rfl rfl rfl rfl rfl
  refine ⟨fun hmode => ?_, fun hmode => ?_⟩
  · rw [sectorRuns_mfm hmode hsync, preLen_mfm, preRuns_mfm, itemLen_mfm hmode hsync, formatRuns_mfm hmode hsync,
      hmode, ← hn]
    dsimp only [PerMode.get]
    refine ⟨fun _ => ?_, rfl, fun _ => ?_, rfl, fun _ => ?_⟩
    · refine itemAt_run (p := 0) (by omega) (by omega) fun _ => ?_
      iterate 6 refine itemAt_run (by omega) (by omega) fun _ => ?_
      rfl
    · refine itemAt_run (p := 0) (by omega) (by omega) fun _ => ?_
      iterate 3 refine itemAt_run (by omega) (by omega) fun _ => ?_
      exact itemAt_lastRun (by omega) (by omega)
    · refine itemAt_run (p := 0) (by omega) (by omega) fun _ => ?_
      iterate 12 refine itemAt_run (by omega) (by omega) fun _ => ?_
      exact itemAt_lastRun (by omega) (by omega)
  · rw [sectorRuns_fm hmode, preLen_fm, preRuns_fm, itemLen_fm hmode, formatRuns_fm hmode, hmode, ← hn]
    dsimp only [PerMode.get]
    refine ⟨fun _ => ?_, rfl, fun _ => ?_, rfl, fun _ => ?_⟩
    · refine itemAt_run (p := 0) (by omega) (by omega) fun _ => ?_
      iterate 4 refine itemAt_run (by omega) (by omega) fun _ => ?_
      rfl
    · refine itemAt_run (p := 0) (by omega) (by omega) fun _ => ?_
      iterate 2 refine itemAt_run (by omega) (by omega) fun _ => ?_
      exact itemAt_lastRun (by omega) (by omega)
    · refine itemAt_run (p := 0) (by omega) (by omega) fun _ => ?_
      iterate 8 refine itemAt_run (by omega) (by omega) fun _ => ?_
      exact itemAt_lastRun (by omega) (by omega)

/-! Gap 2 (44_write_states R232). -/

/-- Settles O23: a cell is read, and past the gap the turn to writing is LIVE_DELAY's (`thenDelay_defersTo`). -/
theorem skipGap2Result : Obligations.SkipGap2Result := by
  unfold Obligations.SkipGap2Result
  refine fun s limit => ⟨rowNeedsState_stateRow (st := .writeSectorSkipGap2) limit s (by decide), fun hst hn => ?_⟩
  have hturn : exec (.writeSectorSkipGap2 limit) s = finish (withOutcome (ruleSkipGap2 none limit s)) :=
    exec_stateRow_in limit (by decide) hst hn
  rw [hturn, ruleSkipGap2]
  refine ⟨fun hnone => by rw [hnone]; rfl, fun c hread => ?_⟩
  rw [hread]
  dsimp only
  refine ⟨fun hgap => by rw [if_pos hgap]; rfl, fun hpast => ?_⟩
  rw [if_neg hpast.not_gt]
  exact thenDelay_defersTo .writeSectorData _ c

/-! The load states (44_write_states R234, R237, R240, R242). -/

/-- LoadItem moves neither the cell's time nor real time (44_write_states R231). -/
theorem loadItem_time (i : Item) (s : State) : (loadItem i s).live.tm = s.live.tm ∧ (loadItem i s).now = s.now := by
  refine ⟨?_, (loadItem_leads i s).kept.now⟩
  cases i with
  | data =>
    rw [loadItem]
    split
    · rfl
    · split
      · rfl
      · next b t hpop =>
        obtain ⟨q, -, rfl⟩ := fifoPop_cases hpop
        rfl
  | _ => rfl

/-- What a load state does at a confirmed time: its item, the emit state, and what CHECKPOINT makes of them. -/
theorem loadThen_checkpointsAs {i : Item} {emit : LiveState} {f : State} (htm : f.live.tm = .ticks f.now) :
    CheckpointsAs { loadItem i f with live := { (loadItem i f).live with bitCounter := 0, state := emit } }
      (finish (withOutcome (loadThen i emit f))) := by
  obtain ⟨htime, hnow⟩ := loadItem_time i f
  exact takeCheckpoint_checkpointsAs
    (s := { loadItem i f with live := { (loadItem i f).live with bitCounter := 0, state := emit } })
    (htime.trans (htm.trans (congrArg Time.ticks hnow.symm)))

/-- The row of a load state, from its rule: `f` is the state in which the item is loaded, write mode begun or not. -/
theorem loadRow_answers {st emit : LiveState} {limit : Time} {s f : State} {item : Item} (hrow : st ≠ .idle)
    (hrule : stateRule st none limit s = confirmed s (loadThen item emit f)) (hlive : f.live = s.live)
    (hnow : f.now = s.now) :
    RowNeedsState (stateRow limit st) st s ∧
    (s.live.state = st → s.live.nextState = none →
      (s.live.tm ≠ .ticks s.now → exec (stateRow limit st) s = .refused .notConfirmed) ∧
      (s.live.tm = .ticks s.now →
        CheckpointsAs { loadItem item f with live := { (loadItem item f).live with bitCounter := 0, state := emit } }
          (exec (stateRow limit st) s))) := by
  refine ⟨rowNeedsState_stateRow limit s hrow, fun hst hn => ?_⟩
  rw [exec_stateRow_in limit hrow hst hn, hrule, confirmed]
  refine ⟨fun htm => by rw [if_neg htm]; rfl, fun htm => ?_⟩
  rw [if_pos htm]
  exact loadThen_checkpointsAs (by rw [hlive, hnow, htm])

/-- WRITE_SECTOR_DATA before END (44_write_states R234). -/
theorem ruleWriteSector_item {s : State} (hitem : itemAt (sectorRuns s.par s.cfg) s.live.byteCounter ≠ .stop) :
    ruleWriteSector s = confirmed s
      (loadThen (itemAt (sectorRuns s.par s.cfg) s.live.byteCounter) .writeSectorDataByte (startIfFirst s)) := by
  rw [ruleWriteSector]
  split
  · next hend => exact absurd hend hitem
  · rfl

/-- WRITE_SECTOR_DATA at END (44_write_states R234). -/
theorem ruleWriteSector_end {s : State} (hend : itemAt (sectorRuns s.par s.cfg) s.live.byteCounter = .stop) :
    ruleWriteSector s = confirmed s ((stopWritingAt s.live.tm s).bind (thenDelay .idle)) := by
  rw [ruleWriteSector, hend]

/-- The end of a sector at a confirmed time: once STOP_WRITING has led to `c` nothing is left for the transition to IDLE to
commit. -/
theorem endOfSector_arrives {s c : State} (htm : s.live.tm = .ticks s.now) (hstop : stopWritingAt s.live.tm s = .ok c) :
    finish (withOutcome ((stopWritingAt s.live.tm s).bind (thenDelay .idle))) = .next { c with
      outcome := .delayed, live := arrived .idle s.live, snap := ⟨arrived .idle s.live, c.pll⟩ } := by
  obtain ⟨⟨-, -, -, hnow, -⟩, hlive, -, hnever⟩ := stopWritingAt_frame hstop
  have hdefers : DefersTo .delayed .idle s.live c (finish (withOutcome (thenDelay .idle c))) :=
    hlive ▸ thenDelay_defersTo .idle c.live c
  rw [hstop]
  exact defersTo_arrives hdefers (by rw [htm, hnow]) hnever

/-- Settles O24: the four load rows are `loadRow_answers`, the end of a sector `endOfSector_arrives`. -/
theorem loadStatesResult : Obligations.LoadStatesResult := by
  unfold Obligations.LoadStatesResult
  refine ⟨?_, ?_⟩
  · rintro s limit i st emit item starts f _ _ hi hf rfl rfl
    have hkept : f.live = s.live ∧ f.now = s.now := by
      rw [hf]
      split <;> exact ⟨rfl, rfl⟩
    obtain ⟨hlive, hnow⟩ := hkept
    have hfirst : starts = true → f = startIfFirst s := by
      rintro rfl
      simp only [hf, true_and]
      rfl
    have hlater : starts = false → f = s := by
      rintro rfl
      simp only [hf, Bool.false_eq_true, false_and, if_false]
    rcases hi with ⟨rfl, rfl, rfl, hs, rfl, hitem⟩ | ⟨rfl, rfl, rfl, hs, rfl⟩ | ⟨rfl, rfl, rfl, hs, rfl⟩ |
      ⟨rfl, rfl, rfl, hs, rfl⟩
    · exact loadRow_answers (st := .writeSectorData) (by decide) (hfirst hs ▸ ruleWriteSector_item hitem) hlive hnow
    · exact loadRow_answers (st := .writeTrackPreSectors) (by decide) (by rw [hfirst hs]; rfl) hlive hnow
    · exact loadRow_answers (st := .writeTrackSector) (by decide) (by rw [hlater hs]; rfl) hlive hnow
    · exact loadRow_answers (st := .writeTrackPostSectors) (by decide) (by rw [hlater hs]; rfl) hlive hnow
  · rintro s limit _ hst hn hend rfl
    have hturn : exec (.writeSectorData limit) s = finish (withOutcome (ruleWriteSector s)) :=
      exec_stateRow_in limit (by decide) hst hn
    have hexec : exec (.stopWriting s.live.tm) s =
        finish ((stopWritingAt s.live.tm s).map fun t => t.setOutcome .none) := rfl
    rw [hturn, ruleWriteSector_end hend, confirmed, hexec]
    refine ⟨fun htm => by rw [if_neg htm]; rfl, fun htm => ?_⟩
    rw [if_pos htm]
    refine ⟨?_, fun w hw => ?_, fun r hr => ?_⟩
    · rintro _ rfl hnothing
      have hkept : commitTo s.live.tm s = .ok s :=
        hnothing.elim (commitTo_never _) fun hempty => commitTo_empty (hempty.trans htm.symm)
      exact endOfSector_arrives htm (by rw [stopWritingAt, hkept]; rfl)
    · obtain ⟨c, hstop, rfl⟩ := finish_map_next hw
      have hends := endOfSector_arrives htm hstop
      exact hends
    · cases hstop : stopWritingAt s.live.tm s with
      | ok c => rw [hstop] at hr; cases hr
      | error e => rw [hstop] at hr; exact hr

/-! The emit states (44_write_states R235, R238, R241, R243). -/

/-- What an emit state does with a byte counted: a part of the track with `length` bytes ends there and the counter restarts,
any other byte goes on with the load state `again`. -/
def CountsBytes (length : Option Nat) (again after : LiveState) (s : State) (next : State → Bool × LiveState) : Prop :=
  ∀ t : State, t.par = s.par → t.cfg = s.cfg →
    next t = if length = some t.live.byteCounter then (true, after) else (false, again)

/-- A part without length never ends. -/
theorem countsBytes_none (again after : LiveState) (s : State) : CountsBytes none again after s fun _ => (false, again) :=
  fun _ _ _ => (if_neg (Option.some_ne_none _).symm).symm

/-- A part of a fixed length ends with the byte of that number. -/
theorem countsBytes_some {m : State → Nat} {s : State} (again after : LiveState)
    (hm : ∀ t : State, t.par = s.par → t.cfg = s.cfg → m t = m s) :
    CountsBytes (some (m s)) again after s fun t =>
      if t.live.byteCounter = m t then (true, after) else (false, again) := by
  intro t hpar hcfg
  simp only [hm t hpar hcfg, Option.some.injEq, eq_comm]

/-- The transition that follows the sixteenth cell of a byte. -/
theorem emitCell_byteDone {length : Option Nat} {again after : LiveState} {limit : Time} {s c : State}
    {next : State → Bool × LiveState} (hnext : CountsBytes length again after s next)
    (hwrite : writeCell limit s = .ok (true, c)) (hdone : 16 ≤ c.live.bitCounter) {n : Nat}
    (hn : n = countUp c.par c.live.byteCounter) :
    emitCell limit next s = thenDelay (if length = some n then after else again)
      { c with live := { c.live with byteCounter := if length = some n then 0 else n } } := by
  obtain ⟨hpar, hcfg, -⟩ := (writeCell_leads hwrite).kept
  subst hn
  simp only [emitCell, hwrite, bind, Except.bind, Bool.not_true, Bool.false_eq_true, if_false, if_neg hdone.not_gt]
  rw [hnext _ (by exact hpar) (by exact hcfg)]
  dsimp only
  split <;> rfl

/-- The row of an emit state, from its rule, by WRITE_ONE_BIT's answer. -/
theorem emitRow_answers {st : LiveState} {length : Option Nat} {again after : LiveState} {limit : Time} {s : State}
    {next : State → Bool × LiveState} (hrow : st ≠ .idle) (hrule : stateRule st none limit s = emitCell limit next s)
    (hnext : CountsBytes length again after s next) :
    RowNeedsState (stateRow limit st) st s ∧
    (s.live.state = st → s.live.nextState = none →
      (writeCell limit s = .error (.fault .writeBufferOverflow) →
        exec (stateRow limit st) s = .fault .writeBufferOverflow) ∧
      (∀ c : State, writeCell limit s = .ok (false, c) → exec (stateRow limit st) s = .next (c.setOutcome .suspended)) ∧
      (∀ c : State, writeCell limit s = .ok (true, c) →
        (c.live.bitCounter < 16 → exec (stateRow limit st) s = .next (c.setOutcome .cont)) ∧
        (16 ≤ c.live.bitCounter → ∀ n : Nat, n = (c.live.byteCounter + 1) % 2 ^ c.par.counterBits →
          DefersTo .delayed (if length = some n then after else again)
            { c.live with byteCounter := if length = some n then 0 else n } c (exec (stateRow limit st) s)))) := by
  refine ⟨rowNeedsState_stateRow limit s hrow, fun hst hn => ?_⟩
  rw [exec_stateRow_in limit hrow hst hn, hrule]
  refine ⟨fun hfault => ?_, fun c hlimit => ?_, fun c hwrite => ⟨fun hmore => ?_, fun hdone n hcount => ?_⟩⟩
  · rw [emitCell, hfault]
    rfl
  · rw [emitCell, hlimit]
    rfl
  · simp only [emitCell, hwrite, bind, Except.bind, Bool.not_true, Bool.false_eq_true, if_false, if_pos hmore]
    rfl
  · rw [emitCell_byteDone hnext hwrite hdone hcount]
    exact thenDelay_defersTo _ _ c

/-- Settles O25: each row is `emitRow_answers`, with the length of its part of the track. -/
theorem emitStatesResult : Obligations.EmitStatesResult := by
  unfold Obligations.EmitStatesResult
  intro s limit i st length again after hi
  rcases hi with ⟨rfl, rfl, rfl, rfl⟩ | ⟨rfl, rfl, rfl, rfl, rfl⟩ | ⟨rfl, rfl, rfl, rfl, rfl⟩ | ⟨rfl, rfl, rfl, rfl⟩
  · exact emitRow_answers (st := .writeSectorDataByte) (by decide) (by rw [stateRule, ruleWriteSectorByte])
      (countsBytes_none _ _ s)
  · exact emitRow_answers (st := .writeTrackPreSectorsByte) (by decide) (by rw [stateRule, rulePreSectorsByte])
      (countsBytes_some (m := fun t => preLen t.par t.cfg.mode) _ _ fun t hpar hcfg => by simp only [hpar, hcfg])
  · exact emitRow_answers (st := .writeTrackSectorByte) (by decide) (by rw [stateRule, ruleTrackSectorByte])
      (countsBytes_some (m := fun t => itemLen t.par t.cfg * t.cfg.fmtSectors.toNat) _ _
        fun t hpar hcfg => by simp only [hpar, hcfg])
  · exact emitRow_answers (st := .writeTrackPostSectorsByte) (by decide) (by rw [stateRule, rulePostSectorsByte])
      (countsBytes_none _ _ s)

end Sys2Proof.Proofs
end

section
/-! What the engine does not look at (45_live_control R263, R270): its operations neither read nor change the inbox, the outcome
register and the registers beside the block, and of the wake-ups they know only those they request themselves. So a run on
another machine that agrees on the rest is the same run. -/

namespace Sys2Proof.Proofs

open Sys2Proof.Machine Sys2Proof.Safety Sys2Proof.Laws

/-- The machine `e` with everything the engine looks at taken from `s`. -/
def graft (e s : State) : State :=
  { e with par := s.par, live := s.live, pll := s.pll, snap := s.snap, cfg := s.cfg, now := s.now, fifo := s.fifo,
           drives := s.drives, ctrl := s.ctrl }

/-! The fields of a grafted machine. By `rw`, not by `rfl`: so `simp` rewrites a test together with how it is decided. -/

section Grafted

variable (e s : State)

@[simp] theorem graft_par : (graft e s).par = s.par := by rw [graft]
@[simp] theorem graft_live : (graft e s).live = s.live := by rw [graft]
@[simp] theorem graft_pll : (graft e s).pll = s.pll := by rw [graft]
@[simp] theorem graft_cfg : (graft e s).cfg = s.cfg := by rw [graft]
@[simp] theorem graft_now : (graft e s).now = s.now := by rw [graft]
@[simp] theorem graft_fifo : (graft e s).fifo = s.fifo := by rw [graft]
@[simp] theorem graft_edgeOf (src : Option Bool) : edgeOf src (graft e s) = edgeOf src s := rfl
@[simp] theorem graft_nextIndex (n : Nat) : mediumNextIndex (graft e s) n = mediumNextIndex s n := rfl
@[simp] theorem graft_budget (n : Nat) : runBudget n (graft e s) = runBudget n s := rfl

end Grafted

/-- The machine `e` after wake-ups at the times `l` have been requested. -/
def woken (l : List Nat) (e : State) : State := { e with wakeups := l.foldl Memory.insert e.wakeups }

@[simp] theorem woken_nil (e : State) : woken [] e = e := rfl

theorem woken_append (l m : List Nat) (e : State) : woken (l ++ m) e = woken m (woken l e) := by
  simp only [woken, List.foldl_append]

/-- On any machine `e` that agrees with `s` on what the engine looks at, `f` does what it does on `s`, and requests the same
wake-ups; `act` grafts what `f` results in. -/
def Detached {α : Type} (act : State → α → α) (f : State → Res α) (s : State) : Prop :=
  ∃ l : List Nat, ∀ e : State, f (graft e s) = (f s).map (act (woken l e))

/-- A step that requests no wake-up may come first. -/
theorem Detached.congr {α : Type} {act : State → α → α} {f g : State → Res α} {s t : State} (hg : Detached act g t)
    (h : f s = g t) (hgraft : ∀ e : State, f (graft e s) = g (graft e t)) : Detached act f s := by
  obtain ⟨l, hl⟩ := hg
  exact ⟨l, fun e => by rw [hgraft, h, hl]⟩

/-- A state with an answer beside it, grafted. -/
def graftFst {α : Type} (e : State) (x : State × α) : State × α := (graft e x.1, x.2)

/-! The operations that request no wake-up. -/

/-- Two such operations, one after the other. -/
theorem bind_graft {e : State} {x : Res State} {g : State → Res State}
    (hg : ∀ c : State, g (graft e c) = (g c).map (graft e)) : (x.map (graft e)).bind g = (x.bind g).map (graft e) := by
  cases x with
  | error r => rfl
  | ok c => exact hg c

theorem readCell_graft (src : Option Bool) (limit : Time) (e s : State) :
    readCell src limit (graft e s) = (readCell src limit s).map (graft e) := by
  simp only [readCell, graft_edgeOf, graft_pll, graft_par, graft_live]
  cases s.pll.getNextBit s.par (edgeOf src s) limit <;> rfl

theorem writeCell_graft (limit : Time) (e s : State) :
    writeCell limit (graft e s) = (writeCell limit s).map fun x => (x.1, graft e x.2) := by
  simp only [writeCell, graft_pll, graft_par, graft_live]
  cases s.pll.writeNextBit s.par (s.live.wsr.getLsbD 15) limit with
  | error e => rfl
  | ok x =>
    obtain ⟨ok, p⟩ := x
    cases ok <;> rfl

theorem commitTo_graft (tm : Time) (e s : State) : commitTo tm (graft e s) = (commitTo tm s).map (graft e) := by
  unfold commitTo
  rw [graft_pll]
  split
  · rfl
  · split_ifs <;> rfl

theorem stopWritingAt_graft (tm : Time) (e s : State) :
    stopWritingAt tm (graft e s) = (stopWritingAt tm s).map (graft e) := by
  rw [stopWritingAt, stopWritingAt, commitTo_graft]
  cases commitTo tm s <;> rfl

theorem takeCheckpoint_graft (e s : State) : takeCheckpoint (graft e s) = (takeCheckpoint s).map (graft e) := by
  simp only [takeCheckpoint, graft_live, graft_now, commitTo_graft]
  split
  · split
    · cases commitTo .never s <;> rfl
    · rfl
  · next n hn =>
    split_ifs
    · cases commitTo (.ticks n) s <;> rfl
    · rfl
    · rfl

theorem enterIdle_graft (e s : State) : enterIdle (graft e s) = (enterIdle s).map (graft e) := by
  rw [enterIdle, enterIdle, graft_live, stopWritingAt_graft]
  cases stopWritingAt s.live.tm s <;> rfl

/-- The transition of LIVE_SYNC after its COMMIT, to the pending state or to the present one (45_live_control R267). -/
def makeDue (s : State) : Res State :=
  if s.live.nextState.getD s.live.state = .idle then enterIdle (goTo .idle s)
  else .ok (goTo (s.live.nextState.getD s.live.state) s)

/-- The end of LIVE_SYNC: no transition is pending any more, and a checkpoint is taken (45_live_control R267). -/
def settle (s : State) : Res State := takeCheckpoint { s with live := { s.live with nextState := none } }

theorem syncConfirmed_eq (s : State) :
    syncConfirmed s = (commitTo s.live.tm s).bind fun c => (makeDue c).bind settle := by
  unfold syncConfirmed
  cases commitTo s.live.tm s with
  | error r => rfl
  | ok c =>
    show (if c.live.nextState.getD c.live.state = .idle
      then (enterIdle (goTo (c.live.nextState.getD c.live.state) c)).bind settle
      else settle (goTo (c.live.nextState.getD c.live.state) c)) = (makeDue c).bind settle
    unfold makeDue
    split
    · next hst => rw [hst]
    · rfl

theorem makeDue_graft (e s : State) : makeDue (graft e s) = (makeDue s).map (graft e) := by
  unfold makeDue
  rw [graft_live]
  split
  · exact enterIdle_graft e (goTo .idle s)
  · rfl

theorem settle_graft (e s : State) : settle (graft e s) = (settle s).map (graft e) :=
  takeCheckpoint_graft e { s with live := { s.live with nextState := none } }

theorem syncConfirmed_graft (e s : State) : syncConfirmed (graft e s) = (syncConfirmed s).map (graft e) := by
  rw [syncConfirmed_eq, syncConfirmed_eq, graft_live, commitTo_graft]
  refine bind_graft fun c => ?_
  rw [makeDue_graft]
  exact bind_graft (settle_graft e)

theorem fifoPush_graft (b : Byte) (e s : State) : fifoPush b (graft e s) = (fifoPush b s).map (graft e) := by
  simp only [fifoPush, graft_fifo, graft_par]
  split_ifs <;> rfl

theorem loadItem_graft (i : Item) (e s : State) : loadItem i (graft e s) = graft e (loadItem i s) := by
  cases i with
  | data =>
    simp only [loadItem, fifoPop, graft_cfg, graft_fifo]
    split_ifs
    · rfl
    · cases s.fifo <;> rfl
  | _ => rfl

theorem startIfFirst_graft (e s : State) : startIfFirst (graft e s) = graft e (startIfFirst s) := by
  simp only [startIfFirst, graft_live, graft_pll]
  split_ifs <;> rfl

/-- A state's outcome beside it. -/
theorem answer_graft {e : State} {x y : Res State} (o : OpOutcome) (h : y = x.map (graft e)) :
    (y.map fun s => (s, o)) = (x.map fun s => (s, o)).map (graftFst e) := by
  subst h
  cases x <;> rfl

theorem loadThen_graft (i : Item) (emit : LiveState) (e s : State) :
    loadThen i emit (graft e s) = (loadThen i emit s).map (graftFst e) := by
  unfold loadThen
  rw [loadItem_graft]
  exact answer_graft .cont (takeCheckpoint_graft e
    { loadItem i s with live := { (loadItem i s).live with bitCounter := 0, state := emit } })

/-! LIVE_DELAY. -/

theorem delayTo_never {st : LiveState} {s : State} (htm : s.live.tm = .never) :
    delayTo st s = .ok { s with live := { s.live with nextState := some st } } := by
  simp only [delayTo, htm]

theorem delayTo_past {st : LiveState} {s : State} {n : Nat} (htm : s.live.tm = .ticks n) (hn : n < s.now) :
    delayTo st s = refuse .delayInThePast := by
  simp only [delayTo, htm, if_pos hn]

theorem delayTo_now {st : LiveState} {s : State} (htm : s.live.tm = .ticks s.now) :
    delayTo st s = syncConfirmed { s with live := { s.live with nextState := some st } } := by
  simp only [delayTo, htm, lt_irrefl, if_false, if_true]

theorem delayTo_detached (st : LiveState) (s : State) : Detached graft (delayTo st) s := by
  cases htm : s.live.tm with
  | never => exact ⟨[], fun e => by rw [delayTo_never htm, delayTo_never (s := graft e s) htm]; rfl⟩
  | ticks n =>
    rcases lt_trichotomy n s.now with hn | rfl | hn
    · exact ⟨[], fun e => by rw [delayTo_past htm hn, delayTo_past (s := graft e s) htm hn]; rfl⟩
    · refine ⟨[], fun e => ?_⟩
      rw [delayTo_now htm, delayTo_now (s := graft e s) htm]
      exact syncConfirmed_graft e { s with live := { s.live with nextState := some st } }
    · exact ⟨[n], fun e => by rw [delayTo_ahead htm hn, delayTo_ahead (s := graft e s) htm hn]; rfl⟩

theorem thenDelay_detached (st : LiveState) (s : State) : Detached graftFst (thenDelay st) s := by
  obtain ⟨l, hl⟩ := delayTo_detached st s
  exact ⟨l, fun e => answer_graft .delayed (hl e)⟩

theorem endWith_detached (f : BitVec 3) (s : State) : Detached graftFst (endWith f) s :=
  (thenDelay_detached .idle (raise f s)).congr rfl fun _ => rfl

/-! The state rules. -/

section Rules

variable (src : Option Bool) (limit : Time) (s : State)

theorem ruleSearchHeader_detached : Detached graftFst (ruleSearchHeader src limit) s := by
  unfold Detached
  simp only [ruleSearchHeader, readCell_graft]
  cases readCell src limit s with
  | none => exact ⟨[], fun _ => rfl⟩
  | some a =>
    simp only [Option.map_some, graft_cfg, graft_live, graft_par]
    split_ifs <;> exact ⟨[], fun _ => rfl⟩

theorem ruleHeaderHeader_detached : Detached graftFst (ruleHeaderHeader src limit) s := by
  unfold Detached
  simp only [ruleHeaderHeader, readCell_graft, graft_cfg]
  split_ifs
  · exact ⟨[], fun _ => rfl⟩
  · cases readCell src limit s with
    | none => exact ⟨[], fun _ => rfl⟩
    | some a =>
      simp only [Option.map_some, graft_live, graft_par]
      split_ifs <;> exact ⟨[], fun _ => rfl⟩

theorem ruleReadId_detached : Detached graftFst (ruleReadId src limit) s := by
  unfold Detached
  simp only [ruleReadId, readCell_graft]
  cases readCell src limit s with
  | none => exact ⟨[], fun _ => rfl⟩
  | some a =>
    simp only [Option.map_some, graft_live]
    split_ifs
    · exact ⟨[], fun _ => rfl⟩
    · exact thenDelay_detached .idle { a with
        live := { a.live with idbuf := a.live.idbuf.put (a.live.bitCounter / 16 - 1) a.live.dataReg } }
    · exact ⟨[], fun _ => rfl⟩

theorem ruleSearchData_detached : Detached graftFst (ruleSearchData src limit) s := by
  unfold Detached
  simp only [ruleSearchData, readCell_graft]
  cases readCell src limit s with
  | none => exact ⟨[], fun _ => rfl⟩
  | some a =>
    simp only [Option.map_some, graft_cfg, graft_live, graft_par]
    split_ifs
    · exact endWith_detached _ a
    all_goals exact ⟨[], fun _ => rfl⟩

theorem ruleDataHeader_detached : Detached graftFst (ruleDataHeader src limit) s := by
  unfold Detached
  simp only [ruleDataHeader, readCell_graft, graft_cfg]
  split_ifs
  · exact ⟨[], fun _ => rfl⟩
  · cases readCell src limit s with
    | none => exact ⟨[], fun _ => rfl⟩
    | some a =>
      simp only [Option.map_some, graft_live, graft_par]
      split_ifs
      · exact ⟨[], fun _ => rfl⟩
      · exact endWith_detached _ a
      · exact ⟨[], fun _ => rfl⟩
      · exact ⟨[], fun _ => rfl⟩
      · exact ⟨[], fun _ => rfl⟩
      · exact endWith_detached _ a

theorem ruleSectorData_detached : Detached graftFst (ruleSectorData src limit) s := by
  unfold Detached
  simp only [ruleSectorData, readCell_graft]
  cases readCell src limit s with
  | none => exact ⟨[], fun _ => rfl⟩
  | some a =>
    simp only [Option.map_some, graft_cfg, graft_live]
    split_ifs
    · exact ⟨[], fun _ => rfl⟩
    · exact thenDelay_detached .readSectorDataByte a
    · exact thenDelay_detached .idle a
    · exact ⟨[], fun _ => rfl⟩

theorem ruleSkipGap2_detached : Detached graftFst (ruleSkipGap2 src limit) s := by
  unfold Detached
  simp only [ruleSkipGap2, readCell_graft]
  cases readCell src limit s with
  | none => exact ⟨[], fun _ => rfl⟩
  | some a =>
    simp only [Option.map_some, graft_cfg, graft_live, graft_par]
    split_ifs
    · exact ⟨[], fun _ => rfl⟩
    · exact thenDelay_detached .writeSectorData { a with live := { a.live with bitCounter := 0, byteCounter := 0 } }

/-- A rule that runs at a confirmed time. -/
theorem confirmed_detached {f : State → Res (State × OpOutcome)} (h : Detached graftFst f s) :
    Detached graftFst (fun x => confirmed x (f x)) s := by
  unfold Detached
  simp only [confirmed, graft_live, graft_now]
  split_ifs
  · exact h
  · exact ⟨[], fun _ => rfl⟩

theorem ruleSectorDataByte_detached : Detached graftFst ruleSectorDataByte s := by
  have hsaved : ∀ a : State,
      Detached graftFst (fun x => (takeCheckpoint (goTo .readSectorData x)).map fun y => (y, OpOutcome.cont)) a :=
    fun a => ⟨[], fun e => answer_graft .cont (takeCheckpoint_graft e (goTo .readSectorData a))⟩
  unfold Detached
  simp only [ruleSectorDataByte, confirmed, graft_live, graft_now, graft_cfg, fifoPush_graft]
  split_ifs
  · exact hsaved s
  · cases fifoPush s.live.dataReg s with
    | none => exact endWith_detached flagOverrun s
    | some a => exact hsaved a
  · exact ⟨[], fun _ => rfl⟩

theorem loadThen_detached (i : State → Item) (emit : LiveState) (hi : ∀ e : State, i (graft e s) = i s) :
    Detached graftFst (fun x => loadThen (i x) emit x) s :=
  ⟨[], fun e => by simp only [hi, loadThen_graft]; rfl⟩

/-- A load state that enters write mode before its first item. -/
theorem startThenLoad_detached (i : State → Item) (emit : LiveState) (hi : ∀ e : State, i (graft e s) = i s) :
    Detached graftFst (fun x => loadThen (i x) emit (startIfFirst x)) s :=
  ⟨[], fun e => by simp only [hi, startIfFirst_graft, loadThen_graft]; rfl⟩

theorem ruleWriteSector_detached : Detached graftFst ruleWriteSector s := by
  by_cases hend : itemAt (sectorRuns s.par s.cfg) s.live.byteCounter = .stop
  · refine Detached.congr (confirmed_detached s (f := fun x => (stopWritingAt x.live.tm x).bind (thenDelay .idle)) ?_)
      (ruleWriteSector_end hend) fun e => ruleWriteSector_end (s := graft e s) hend
    unfold Detached
    simp only [graft_live, stopWritingAt_graft]
    cases stopWritingAt s.live.tm s with
    | error r => exact ⟨[], fun _ => rfl⟩
    | ok c => exact thenDelay_detached .idle c
  · exact Detached.congr (confirmed_detached s (startThenLoad_detached s
      (fun x => itemAt (sectorRuns x.par x.cfg) x.live.byteCounter) .writeSectorDataByte fun _ => rfl))
      (ruleWriteSector_item hend) fun e => ruleWriteSector_item (s := graft e s) hend

theorem rulePreSectors_detached : Detached graftFst rulePreSectors s :=
  confirmed_detached s (startThenLoad_detached s
    (fun x => itemAt (preRuns x.par x.cfg.mode) x.live.byteCounter) .writeTrackPreSectorsByte fun _ => rfl)

theorem ruleTrackSector_detached : Detached graftFst ruleTrackSector s :=
  confirmed_detached s (loadThen_detached s
    (fun x => itemAt (formatRuns x.par x.cfg) (x.live.byteCounter % itemLen x.par x.cfg)) .writeTrackSectorByte fun _ => rfl)

theorem rulePostSectors_detached : Detached graftFst rulePostSectors s :=
  confirmed_detached s (loadThen_detached s
    (fun x => .fill (x.par.gapFill.get x.cfg.mode)) .writeTrackPostSectorsByte fun _ => rfl)

/-- The byte just written is counted (44_write_states R235, R238, R241, R243). -/
def byteCounted (s : State) : State :=
  { s with live := { s.live with byteCounter := countUp s.par s.live.byteCounter } }

/-- What follows a byte in an emit state. -/
def afterByte (next : State → Bool × LiveState) (s : State) : Res (State × OpOutcome) :=
  thenDelay (next s).2 (if (next s).1 then { s with live := { s.live with byteCounter := 0 } } else s)

theorem emitCell_afterByte {next : State → Bool × LiveState} {c : State} (hwrite : writeCell limit s = .ok (true, c))
    (hdone : ¬c.live.bitCounter < 16) : emitCell limit next s = afterByte next (byteCounted c) := by
  simp only [emitCell, hwrite, bind, Except.bind, Bool.not_true, Bool.false_eq_true, if_false, if_neg hdone]
  rfl

theorem afterByte_detached {next : State → Bool × LiveState} (hnext : ∀ e x : State, next (graft e x) = next x) :
    Detached graftFst (afterByte next) s := by
  unfold Detached
  simp only [afterByte, hnext]
  split_ifs
  · exact thenDelay_detached _ { s with live := { s.live with byteCounter := 0 } }
  · exact thenDelay_detached _ s

/-- The common body of the emit states, where what follows a byte depends on nothing beside the engine. -/
theorem emitCell_detached {next : State → Bool × LiveState} (hnext : ∀ e x : State, next (graft e x) = next x) :
    Detached graftFst (emitCell limit next) s := by
  have hgraft := fun e => writeCell_graft limit e s
  cases hwrite : writeCell limit s with
  | error r => exact ⟨[], fun e => by rw [emitCell, emitCell, hgraft, hwrite]; rfl⟩
  | ok x =>
    obtain ⟨go, c⟩ := x
    simp only [hwrite, Except.map] at hgraft
    cases go with
    | false => exact ⟨[], fun e => by rw [emitCell, emitCell, hgraft, hwrite]; rfl⟩
    | true =>
      by_cases hmore : c.live.bitCounter < 16
      · refine ⟨[], fun e => ?_⟩
        have hmore' : (graft e c).live.bitCounter < 16 := hmore
        simp only [emitCell, hgraft, hwrite, bind, Except.bind, Bool.not_true, Bool.false_eq_true, if_false, if_pos hmore,
          if_pos hmore']
        rfl
      · exact (afterByte_detached (byteCounted c) hnext).congr (emitCell_afterByte limit s hwrite hmore) fun e =>
          emitCell_afterByte limit (graft e s) (hgraft e) hmore

/-- The rule of any state. -/
theorem stateRule_detached (st : LiveState) : Detached graftFst (stateRule st src limit) s := by
  cases st with
  | idle => exact ⟨[], fun _ => rfl⟩
  | searchAddressMarkHeader => exact ruleSearchHeader_detached src limit s
  | readHeaderBlockHeader => exact ruleHeaderHeader_detached src limit s
  | readIdBlock => exact ruleReadId_detached src limit s
  | searchAddressMarkData => exact ruleSearchData_detached src limit s
  | readDataBlockHeader => exact ruleDataHeader_detached src limit s
  | readSectorData => exact ruleSectorData_detached src limit s
  | readSectorDataByte => exact ruleSectorDataByte_detached s
  | writeSectorSkipGap2 => exact ruleSkipGap2_detached src limit s
  | writeSectorData => exact ruleWriteSector_detached s
  | writeTrackPreSectors => exact rulePreSectors_detached s
  | writeTrackSector => exact ruleTrackSector_detached s
  | writeTrackPostSectors => exact rulePostSectors_detached s
  | writeSectorDataByte =>
    unfold stateRule ruleWriteSectorByte
    exact emitCell_detached limit s fun _ _ => rfl
  | writeTrackPreSectorsByte =>
    unfold stateRule rulePreSectorsByte
    exact emitCell_detached limit s fun _ _ => rfl
  | writeTrackSectorByte =>
    unfold stateRule ruleTrackSectorByte
    exact emitCell_detached limit s fun _ _ => rfl
  | writeTrackPostSectorsByte =>
    unfold stateRule rulePostSectorsByte
    exact emitCell_detached limit s fun _ _ => rfl

end Rules

/-! LIVE_RUN. -/

theorem runLoop_detached (fuel : Nat) (limit : Time) (s : State) : Detached graftFst (runLoop fuel limit) s := by
  induction fuel generalizing s with
  | zero => exact ⟨[], fun _ => rfl⟩
  | succ fuel ih =>
    obtain ⟨l, hl⟩ := stateRule_detached none limit s s.live.state
    cases hturn : stateRule s.live.state none limit s with
    | error r => exact ⟨[], fun e => by simp only [runLoop, graft_live, hl, hturn, Except.map]⟩
    | ok x =>
      obtain ⟨t, o⟩ := x
      by_cases hagain : o = .cont ∨ (o = .delayed ∧ t.live.nextState = none)
      · obtain ⟨m, hm⟩ := ih t
        refine ⟨l ++ m, fun e => ?_⟩
        simp only [runLoop, graft_live, hl, hturn, Except.map, graftFst, if_pos hagain, hm, woken_append]
      · exact ⟨l, fun e => by simp only [runLoop, graft_live, hl, hturn, Except.map, graftFst, if_neg hagain]⟩

/-- A run is the same run on any machine that agrees on what the engine looks at (45_live_control R270). -/
theorem runTo_detached (limit : Time) (s : State) : Detached graftFst (runTo limit) s := by
  unfold Detached
  simp only [runTo, graft_live]
  split_ifs
  · exact ⟨[], fun _ => rfl⟩
  · cases limit with
    | ticks n => exact runLoop_detached (runBudget n s) (.ticks n) s
    | never =>
      simp only [graft_now, graft_nextIndex, graft_par]
      cases mediumNextIndex s s.now with
      | ticks n => exact runLoop_detached (runBudget n s) (.ticks n) s
      | never =>
        obtain ⟨l, hl⟩ := runLoop_detached (runBudget (s.now + s.par.safetyNet) s) (.ticks (s.now + s.par.safetyNet))
          (requestWake (.ticks (s.now + s.par.safetyNet)) s)
        exact ⟨(s.now + s.par.safetyNet) :: l, fun e => hl (woken [s.now + s.par.safetyNet] e)⟩

end Sys2Proof.Proofs
end

section
/-! Live control (45_live_control R264 to R268): CHECKPOINT, ROLLBACK, LIVE_DELAY, LIVE_SYNC and LIVE_ABORT, at a confirmed time and
ahead of real time, where the engine is rolled back and run again. -/

namespace Sys2Proof.Proofs

open Sys2Proof.Machine Sys2Proof.Safety Sys2Proof.Laws

/-! CHECKPOINT (45_live_control R264). -/

theorem exec_checkpoint_ahead {s : State} {n : Nat} (htm : s.live.tm = .ticks n) (hn : s.now < n) :
    exec .checkpoint s = .refused .checkpointAhead := by
  show finish ((takeCheckpoint s).map fun t => t.setOutcome .none) = _
  simp only [takeCheckpoint, htm, if_neg hn.not_ge]
  rfl

/-- The engine does not stand ahead of real time. -/
def Reached (s : State) : Prop := s.live.tm = .never ∨ ∃ n : Nat, s.live.tm = .ticks n ∧ n ≤ s.now

/-- CHECKPOINT not ahead of real time: a live drive's COMMIT, and the copy of what it leaves. -/
theorem takeCheckpoint_reached {s : State} (h : Reached s) :
    takeCheckpoint s = (if s.live.drive.isSome then commitTo s.live.tm s else .ok s).map fun t =>
      { t with snap := ⟨t.live, t.pll⟩ } := by
  rcases h with htm | ⟨n, htm, hn⟩
  · simp only [takeCheckpoint, htm]
  · simp only [takeCheckpoint, htm, if_pos hn]

/-- CHECKPOINT with nothing to commit. -/
theorem takeCheckpoint_copies {s : State} (h : Reached s)
    (hc : s.live.drive = none ∨ commitTo s.live.tm s = .ok s) :
    takeCheckpoint s = .ok { s with snap := ⟨s.live, s.pll⟩ } := by
  rw [takeCheckpoint_reached h]
  rcases hc with hdrive | hc
  · rw [hdrive]
    rfl
  · rw [hc, ite_self]
    rfl

/-! LIVE_SYNC (45_live_control R267). -/

theorem settle_copies {s : State} (h : Reached s)
    (hc : s.live.drive = none ∨ commitTo s.live.tm s = .ok s) {l : Live} (hl : l = { s.live with nextState := none }) :
    settle s = .ok { s with live := l, snap := ⟨l, s.pll⟩ } := by
  subst hl
  refine takeCheckpoint_copies (s := { s with live := { s.live with nextState := none } }) h (hc.imp_right fun hc => ?_)
  exact (commitTo_setNextState s.live.tm none s).trans (by rw [hc]; rfl)

/-- LIVE_SYNC of what is confirmed, at whatever time before: COMMIT, the due transition and its checkpoint. -/
theorem syncConfirmed_makesDue {n : Nat} {st : LiveState} {s t : State} (htm : s.live.tm = .ticks n) (hn : n ≤ s.now)
    (hst : st = s.live.nextState.getD s.live.state) (hc : commitTo s.live.tm s = .ok t) :
    syncConfirmed s = .ok { t with
      live := arrived st s.live
      pll := arrivedPll st t.pll
      snap := ⟨arrived st s.live, arrivedPll st t.pll⟩ } := by
  obtain ⟨⟨-, -, -, hnow, -⟩, hlive, -⟩ := commitTo_frame hc
  have hreached : ∀ st : LiveState, Reached (goTo st t) := fun _ => .inr ⟨n, (congrArg Live.tm hlive).trans htm, hnow ▸ hn⟩
  have hagain : ∀ st : LiveState, commitTo t.live.tm (goTo st t) = .ok (goTo st t) :=
    fun _ => hlive ▸ commitTo_again hc rfl
  rw [syncConfirmed_eq, hc]
  show (makeDue t).bind settle = _
  rw [makeDue, hlive, ← hst]
  by_cases hidle : st = .idle
  · rw [if_pos hidle, enterIdle_of_committed (hagain .idle)]
    show settle _ = _
    rw [settle_copies (l := arrived st s.live) (.inl rfl) (.inl rfl) (by rw [arrived, if_pos hidle, ← hlive]; rfl),
      arrivedPll, if_pos hidle]
    rfl
  · rw [if_neg hidle]
    show settle _ = _
    rw [settle_copies (s := goTo st t) (l := arrived st s.live) (hreached st) (.inr (hagain st))
      (by rw [arrived, if_neg hidle, ← hlive]; rfl), arrivedPll, if_neg hidle]
    rfl

theorem sync_reached {n : Nat} {s : State} (htm : s.live.tm = .ticks n) (hn : n ≤ s.now) : sync s = syncConfirmed s := by
  simp only [sync, htm, if_neg hn.not_gt]

/-- What LIVE_SYNC ahead of real time does after the second run. -/
def commitAndSettle (s : State) : Res State := (commitTo s.live.tm s).bind settle

theorem sync_ahead {n : Nat} {s : State} (htm : s.live.tm = .ticks n) (hn : s.now < n) :
    sync s = (runTo (.ticks s.now) (rollBack s)).bind fun x => commitAndSettle x.1 := by
  simp only [sync, htm, if_pos hn]
  rfl

theorem commitAndSettle_detached (s : State) : Detached graft commitAndSettle s := by
  refine ⟨[], fun e => ?_⟩
  rw [commitAndSettle, graft_live, commitTo_graft]
  exact bind_graft (settle_graft e)

/-! The second run, which finds another outcome register than the run of LIVE_SYNC and LIVE_ABORT. -/

theorem Detached.setOutcome {f : State → Res State} {s : State} (h : Detached graft f s) (o : OpOutcome) :
    f (s.setOutcome o) = (f s).map fun x => x.setOutcome o := by
  obtain ⟨l, hl⟩ := h
  have hself : f s = (f s).map (graft (woken l s)) := hl s
  refine (hl (s.setOutcome o)).trans ?_
  cases hf : f s with
  | error r => rfl
  | ok x =>
    rw [hf] at hself
    exact congrArg (fun y => (y.map fun z => z.setOutcome o)) hself.symm

theorem Detached.setOutcome_fst {α : Type} {f : State → Res (State × α)} {s : State} (h : Detached graftFst f s)
    (o : OpOutcome) : f (s.setOutcome o) = (f s).map fun x => (x.1.setOutcome o, x.2) := by
  obtain ⟨l, hl⟩ := h
  have hself : f s = (f s).map (graftFst (woken l s)) := hl s
  refine (hl (s.setOutcome o)).trans ?_
  cases hf : f s with
  | error r => rfl
  | ok x =>
    rw [hf] at hself
    exact congrArg (fun y => (y.map fun z => (z.1.setOutcome o, z.2))) hself.symm

/-- What is done after ROLLBACK and LIVE_RUN by themselves is what an operation does that rolls back and runs within. -/
theorem finish_rerun {f : State → Res State} {limit : Time} {s r u : State} (hf : ∀ x : State, Detached graft f x)
    (hr : exec .rollback s = .next r) (hu : exec (.liveRun limit) r = .next u) :
    finish (((runTo limit (rollBack s)).bind fun x => f x.1).map fun t => t.setOutcome .none) =
      finish ((f u).map fun t => t.setOutcome .none) := by
  cases hr
  obtain ⟨y, hy, rfl⟩ := finish_map_next hu
  rw [(runTo_detached limit (rollBack s)).setOutcome_fst] at hy
  obtain ⟨x, hx, rfl⟩ := res_map_ok hy
  have hsame : f (x.1.setOutcome x.2) = (f x.1).map fun t => t.setOutcome x.2 := (hf x.1).setOutcome x.2
  rw [hx]
  show finish ((f x.1).map _) = finish ((f (x.1.setOutcome x.2)).map _)
  rw [hsame]
  cases f x.1 <;> rfl

/-! LIVE_ABORT (45_live_control R268). -/

theorem abort_reached {s : State} (h : Reached s) :
    abort s = abortFrom s := by
  have hahead : ¬(Time.lt (.ticks s.now) s.live.tm && s.live.tm ≠ .never) = true := by
    rcases h with htm | ⟨n, htm, hn⟩
    · simp [htm]
    · simp [htm, Time.lt, hn]
  unfold abort
  rw [if_neg hahead]
  rfl

theorem abort_ahead {n : Nat} {s : State} (htm : s.live.tm = .ticks n) (hn : s.now < n) :
    abort s = (runTo (.ticks s.now) (rollBack s)).bind fun x => abortFrom x.1 := by
  have hahead : (Time.lt (.ticks s.now) s.live.tm && s.live.tm ≠ .never) = true := by simp [htm, Time.lt, hn]
  unfold abort
  rw [if_pos hahead]
  cases runTo (.ticks s.now) (rollBack s) <;> rfl

/-- STOP_WRITING of a live drive. -/
def stopIfLive (s : State) : Res State := if s.live.drive.isSome then stopWritingAt s.live.tm s else .ok s

/-- The second half of LIVE_ABORT: its checkpoint has nothing to commit. -/
theorem abortFrom_eq (s : State) :
    abortFrom s = (stopIfLive s).map fun c =>
      { c with live := arrived .idle c.live, snap := ⟨arrived .idle c.live, c.pll⟩ } := by
  unfold abortFrom stopIfLive
  split
  · cases stopWritingAt s.live.tm s <;> rfl
  · rfl

theorem abortFrom_detached (s : State) : Detached graft abortFrom s := by
  have hstop : ∀ e : State, stopIfLive (graft e s) = (stopIfLive s).map (graft e) := by
    intro e
    simp only [stopIfLive, graft_live, stopWritingAt_graft]
    split_ifs <;> rfl
  refine ⟨[], fun e => ?_⟩
  rw [abortFrom_eq, abortFrom_eq, hstop]
  cases stopIfLive s <;> rfl

theorem stopIfLive_nothing {s : State} (h : s.live.drive = none ∨ s.pll.writeStart = .never) : stopIfLive s = .ok s := by
  unfold stopIfLive
  split
  · next hdrive =>
    have hnever := h.resolve_left (Option.isSome_iff_ne_none.1 hdrive)
    have hleft : s.setPll { s.pll with writeStart := .never } = s := by rw [← hnever]; rfl
    rw [stopWritingAt, commitTo_never _ hnever]
    exact congrArg Except.ok hleft
  · rfl

/-- Settles O30: CHECKPOINT by `takeCheckpoint_reached`; a run after ROLLBACK is the run before it (`runTo_detached`), on a machine
that agrees on all the engine looks at. -/
theorem checkpointAndRollbackResult : Obligations.CheckpointAndRollbackResult := by
  unfold Obligations.CheckpointAndRollbackResult
  have hcheckpoint : ∀ s : State, exec .checkpoint s = finish ((takeCheckpoint s).map fun t => t.setOutcome .none) :=
    fun _ => rfl
  refine ⟨fun s => ⟨fun n => exec_checkpoint_ahead, fun hreached => ⟨fun hnothing => ?_, fun hdrive c hc => ?_⟩, rfl, ?_⟩, ?_⟩
  · rw [hcheckpoint, takeCheckpoint_copies hreached (hnothing.imp_right (commitTo_never _))]
    rfl
  · obtain ⟨t, ht, rfl⟩ := finish_map_next hc
    rw [hcheckpoint, takeCheckpoint_reached hreached, if_pos (Option.isSome_iff_ne_none.2 hdrive), ht]
    rfl
  · rintro t ⟨⟩
    rfl
  · intro s t limit hsaved hrun hsnap hdrives hfifo
    obtain ⟨⟨a, o⟩, ha, rfl⟩ := finish_map_next hrun
    have hkept := (runTo_leads ha).kept
    obtain ⟨l, hl⟩ := runTo_detached limit s
    have hback : exec .rollback (a.setOutcome o) = .next (graft (a.setOutcome .none) s) := by
      obtain ⟨hpar, hcfg, hctrl, hnow, -⟩ := hkept
      dsimp only [setOutcome_snap, setOutcome_drives, setOutcome_fifo] at hsnap hdrives hfifo
      show Host.Outcome.next { a with outcome := .none, live := a.snap.live, pll := a.snap.pll } = _
      rw [graft, ← hpar, ← hcfg, ← hctrl, ← hnow, ← hdrives, ← hfifo, ← hsnap, hsnap, hsaved]
      rfl
    refine ⟨_, (graft (woken l (a.setOutcome .none)) a).setOutcome o, hback, rfl, rfl, ?_, rfl, rfl, rfl, rfl, rfl⟩
    show finish (withOutcome (runTo limit (graft (a.setOutcome .none) s))) = _
    rw [hl, ha]
    rfl

/-- Settles O31: LIVE_DELAY is `defersTo_delayTo`, and `defersTo_arrives` outside write mode. -/
theorem liveDelayResult : Obligations.LiveDelayResult := by
  unfold Obligations.LiveDelayResult
  intro s st
  have hdefers : DefersTo .none st s.live s (exec (.liveDelay st) s) := defersTo_delayTo .none st s
  exact ⟨hdefers, defersTo_arrives hdefers⟩

/-- Settles O32: at a confirmed time `syncConfirmed_makesDue`, ahead of it the second run (`finish_rerun`). -/
theorem liveSyncResult : Obligations.LiveSyncResult := by
  unfold Obligations.LiveSyncResult
  intro s
  have hexec : exec .liveSync s = finish ((sync s).map fun t => t.setOutcome .none) := rfl
  refine ⟨fun htm => ?_, ?_, ?_⟩
  · rw [hexec, sync, htm]
    rfl
  · rintro n st _ htm hn hst rfl
    rw [hexec, sync_reached htm hn]
    refine ⟨fun hnever => ?_, ?_⟩
    · have hleft : arrivedPll st s.pll = s.pll := by
        rw [arrivedPll, ← hnever, ite_self]
      rw [syncConfirmed_makesDue htm hn hst (commitTo_never _ hnever), hleft]
      rfl
    · rintro w _ hw rfl
      rw [← htm] at hw
      obtain ⟨t, ht, rfl⟩ := finish_map_next hw
      rw [syncConfirmed_makesDue htm hn hst ht]
      rfl
  · rintro n r u w htm hn hr hu hreached hw _ rfl
    obtain ⟨c, hc, rfl⟩ := finish_map_next hw
    have hfinal : commitAndSettle u = .ok { c with
        live := { u.live with nextState := none }, snap := ⟨{ u.live with nextState := none }, c.pll⟩ } := by
      obtain ⟨⟨-, -, -, hnow, -⟩, hlive, -⟩ := commitTo_frame hc
      have hbefore : Reached c := by
        rw [Reached, hlive, hnow]
        cases htime : u.live.tm with
        | never => exact .inl rfl
        | ticks m => exact .inr ⟨m, rfl, hreached m htime⟩
      rw [commitAndSettle, hc, ← hlive]
      exact settle_copies hbefore (.inr (hlive ▸ commitTo_again hc rfl)) rfl
    rw [hexec, sync_ahead htm hn, finish_rerun commitAndSettle_detached hr hu, hfinal]
    rfl

/-- Settles O33: the second half of LIVE_ABORT (`abortFrom_stopped`), at once or after the second run (`finish_rerun`). -/
theorem liveAbortResult : Obligations.LiveAbortResult := by
  unfold Obligations.LiveAbortResult
  intro s u l hl hfrom
  have hexec : exec .liveAbort s = finish ((abortFrom u).map fun t => t.setOutcome .none) := by
    show finish ((abort s).map fun t => t.setOutcome .none) = _
    rcases hfrom with ⟨hreached, rfl⟩ | ⟨n, r, htm, hn, hr, hu⟩
    · rw [abort_reached hreached]
    · rw [abort_ahead htm hn, finish_rerun abortFrom_detached hr hu]
  rw [hexec]
  refine ⟨fun hnothing => ?_, fun w hdrive hw => ?_⟩
  · rw [abortFrom_eq, stopIfLive_nothing hnothing, hl]
    rfl
  · obtain ⟨c, hc, rfl⟩ := finish_map_next hw
    obtain ⟨-, hlive, -⟩ := stopWritingAt_frame hc
    rw [abortFrom_eq, stopIfLive, if_pos (Option.isSome_iff_ne_none.2 hdrive), hc, hl, ← hlive]
    rfl

end Sys2Proof.Proofs
end

section
/-! Events after LIVE_SYNC (60_exceptions R357, R358, 46_command_engine R296, R301): how a command ends at once and through
TRACK_DONE, and what terminal count, a dropping ready line and an index pulse do to the command in execution. -/

namespace Sys2Proof.Proofs

open Sys2Proof.Machine Sys2Proof.Safety Sys2Proof.Laws

/-! The end of a command. -/

/-- The result bytes of a command with an execution phase: seven, where the result buffer holds them. -/
theorem setResult_resBuf {s : State} (st0 st1 st2 : Byte) {chrn : List Byte} (hlen : chrn.length = 4)
    (hbuf : 7 ≤ s.par.resBufLen) :
    (setResult st0 st1 st2 chrn s).ctrl.resBuf = (st0 ||| headUnit s.job.hd s.job.unit) :: st1 :: st2 :: chrn :=
  List.take_of_length_le (by simpa [hlen] using hbuf)

theorem enterResult_kept_bytes (s : State) :
    (enterResult s).ctrl.resBuf = s.ctrl.resBuf ∧ (enterResult s).inbox = s.inbox ∧ (enterResult s).fifo = [] := by
  unfold enterResult beginHeadUnload
  dsimp only
  split <;> exact ⟨rfl, rfl, rfl⟩

/-- A command that waits for nothing the host has still to take passes through TRACK_DONE (46_command_engine R308). -/
theorem endTransfer_passes {s : State} (st0 st1 st2 : Byte) (chrn : List Byte)
    (h : s.ctrl.job.kind.toHost = false ∨ s.ctrl.tc = true) :
    (endTransfer st0 st1 st2 chrn s).ctrl.resBuf = (setResult st0 st1 st2 chrn s).ctrl.resBuf ∧
      (endTransfer st0 st1 st2 chrn s).inbox = .client .trackDone :: s.inbox := by
  have hpasses : ¬(s.ctrl.job.kind.toHost && !s.ctrl.tc && !s.fifo.isEmpty) = true := by
    rcases h with h | h <;> simp [h]
  have hend : endTransfer st0 st1 st2 chrn s = _ := if_neg hpasses
  rw [hend]
  exact ⟨rfl, rfl⟩

/-- C, H, R, N are four bytes, and to find them moves nothing but the count of free values. -/
theorem resultChrn_frame (s : State) :
    ∃ (chrn : List Byte) (n : Nat), resultChrn s = (chrn, { s with freeCount := n }) ∧ chrn.length = 4 := by
  unfold resultChrn
  split
  · exact ⟨_, _, rfl, rfl⟩
  · exact ⟨_, s.freeCount, rfl, rfl⟩

/-- The end at once: RESULT with its bytes and INTRQ, the FIFO emptied (46_command_engine R306). -/
theorem endJob_result {s : State} (st0 st1 st2 : Byte) {chrn : List Byte} (hlen : chrn.length = 4)
    (hbuf : 7 ≤ s.par.resBufLen) :
    (endJob st0 st1 st2 chrn s).ctrl.phase = .result ∧ (endJob st0 st1 st2 chrn s).ctrl.intrq = true ∧
      (endJob st0 st1 st2 chrn s).inbox = s.inbox ∧ (endJob st0 st1 st2 chrn s).fifo = [] ∧
      (endJob st0 st1 st2 chrn s).ctrl.resBuf = (st0 ||| headUnit s.job.hd s.job.unit) :: st1 :: st2 :: chrn := by
  obtain ⟨-, hphase, hintrq⟩ := enterResult_result (setResult st0 st1 st2 chrn s)
  obtain ⟨hbytes, hinbox, hfifo⟩ := enterResult_kept_bytes (setResult st0 st1 st2 chrn s)
  exact ⟨hphase, hintrq, hinbox, hfifo, hbytes.trans (setResult_resBuf st0 st1 st2 hlen hbuf)⟩

/-- The abnormal end of a command that an event ended. -/
theorem complete_abnormal {s : State} {st0 : Byte} (st1 st2 : Byte) (hst0 : st0 ≠ 0) (hbuf : 7 ≤ s.par.resBufLen) :
    (complete st0 st1 st2 s).ctrl.phase = .result ∧ (complete st0 st1 st2 s).ctrl.intrq = true ∧
      (complete st0 st1 st2 s).inbox = s.inbox ∧ (complete st0 st1 st2 s).fifo = [] ∧
      (complete st0 st1 st2 s).ctrl.resBuf.take 3 = [st0 ||| headUnit s.job.hd s.job.unit, st1, st2] ∧
      (complete st0 st1 st2 s).ctrl.resBuf.length = 7 := by
  obtain ⟨chrn, n, hframe, hlen⟩ := resultChrn_frame s
  have hcomplete : complete st0 st1 st2 s = endJob st0 st1 st2 chrn { s with freeCount := n } := by
    rw [complete, if_neg hst0, endEarly, hframe]
  obtain ⟨hphase, hintrq, hinbox, hfifo, hbytes⟩ :=
    endJob_result (s := { s with freeCount := n }) st0 st1 st2 hlen hbuf
  rw [hcomplete]
  refine ⟨hphase, hintrq, hinbox, hfifo, ?_, ?_⟩
  · rw [hbytes]
    rfl
  · rw [hbytes, List.length_cons, List.length_cons, List.length_cons, hlen]

/-- The normal end of a command that an event ended, which passes through TRACK_DONE. -/
theorem complete_normal {s : State} (st1 st2 : Byte) (hbuf : 7 ≤ s.par.resBufLen)
    (hpasses : s.ctrl.job.kind.toHost = false ∨ s.ctrl.tc = true) :
    (complete 0 st1 st2 s).inbox = .client .trackDone :: s.inbox ∧
      (complete 0 st1 st2 s).ctrl.resBuf = headUnit s.job.hd s.job.unit :: st1 :: st2 :: (resultChrn s).1 := by
  obtain ⟨chrn, n, hframe, hlen⟩ := resultChrn_frame s
  have hcomplete : complete 0 st1 st2 s = endTransfer 0 st1 st2 chrn { s with freeCount := n } := by
    rw [complete, if_pos rfl, hframe]
  obtain ⟨hbytes, hinbox⟩ := endTransfer_passes (s := { s with freeCount := n }) 0 st1 st2 chrn hpasses
  rw [hcomplete, hframe, hbytes, setResult_resBuf (s := { s with freeCount := n }) 0 st1 st2 hlen hbuf]
  exact ⟨hinbox, congrArg (· :: st1 :: st2 :: chrn) BitVec.zero_or⟩

/-- With no reset at the present tick nothing is overridden (60_exceptions R360). -/
theorem deliver_of_no_reset {s : State} (e : Event) (hat : s.resetAt ≠ some s.now) : deliver e s = handle e s := by
  have hreset : atReset s = false := beq_false_of_ne hat
  rw [deliver, hreset]
  rfl

/-! Terminal count (60_exceptions R357). -/

/-- An engine that has not reached IDLE runs on (45_live_control R269). -/
theorem proceed_runs {s : State} (h : s.live.state ≠ .idle) : proceed s = { s with inbox := runInputs ++ s.inbox } :=
  if_neg h

theorem completeAtTc_aborts {s : State} (h : s.ctrl.job.kind ≠ .undescribed) :
    completeAtTc s = { s with
      cfg := { s.cfg with tcDone := true }
      inbox := .request (encode .liveAbort) :: .client (.complete 0 s.ctrl.job.st1 s.ctrl.job.st2) :: s.inbox } := by
  have hstep : (if s.job.kind = .undescribed then ClientStep.undescribedDone
      else .complete 0 s.job.st1 s.job.st2) = .complete 0 s.ctrl.job.st1 s.ctrl.job.st2 := if_neg h
  rw [completeAtTc, hstep]
  rfl

/-- A run is not in a data field and in a format at once. -/
theorem inFormat_of_fieldInFlight {st : LiveState} (h : fieldInFlight st = true) : inFormat st = false := by
  revert h
  cases st <;> decide

/-- Settles O49: the table of terminal count by where the command stands, and the end it leads to (`complete_normal`). -/
theorem terminalCountResult : Obligations.TerminalCountResult := by
  unfold Obligations.TerminalCountResult
  rintro s _ _ _ rfl rfl rfl
  have hafter : clientStep .afterTc s = afterTc s := rfl
  rw [hafter]
  refine ⟨fun hat => ?_, fun hstep hrun => ?_, fun hstep hkind => ?_, fun hstep => ?_, fun hstep => ?_,
    fun hstep hrun => ?_,
    fun hstep => ⟨fun hfield => ?_, fun hformat => ?_, fun hfield hformat => ?_⟩, ?_⟩
  · rw [deliver_of_no_reset _ hat]
    rfl
  · simp only [afterTc, State.job, hstep]
    exact proceed_runs (s := setTcDone s) hrun
  · rcases hstep with hstep | ⟨hstep, hformat⟩
    · simp only [afterTc, State.job, hstep]
      exact completeAtTc_aborts hkind
    · simp only [afterTc, State.job, hstep]
      exact (if_neg hformat).trans (completeAtTc_aborts hkind)
  · simp only [afterTc, State.job, hstep]
    rfl
  · rcases hstep with hstep | ⟨hstep, hformat⟩
    · simp only [afterTc, State.job, hstep]
    · simp only [afterTc, State.job, hstep]
      exact if_pos hformat
  · simp only [afterTc, State.job, hstep]
    exact proceed_runs hrun
  · have hformat := inFormat_of_fieldInFlight hfield
    simp only [afterTc, State.job, hstep, hformat, hfield, Bool.false_eq_true, if_false, if_true]
    rfl
  · simp only [afterTc, State.job, hstep, hformat, if_true]
    rfl
  · simp only [afterTc, State.job, hstep, hformat, hfield, Bool.false_eq_true, if_false]
    rfl
  · rintro st1 st2 _ _ rfl hreadId hformat htc hbuf
    have hcomplete : clientStep (.complete 0 st1 st2) s = complete 0 st1 st2 s := rfl
    have htarget : resultChrn s = (s.ctrl.job.chrn, s) := if_neg (not_or.2 ⟨hreadId, hformat⟩)
    obtain ⟨hinbox, hbytes⟩ := complete_normal st1 st2 hbuf (.inr htc)
    rw [htarget] at hbytes
    refine ⟨hbytes, hinbox, ?_⟩
    rintro rfl
    obtain ⟨-, hphase, hintrq⟩ := enterResult_result (complete 0 st1 st2 s)
    obtain ⟨hkept, -, hfifo⟩ := enterResult_kept_bytes (complete 0 st1 st2 s)
    exact ⟨hphase, hintrq, hfifo, hkept⟩

/-! A drive that is no longer ready (60_exceptions R358). -/

/-- The status of drive `d` that a change of its ready line leaves: IC = 11, not ready, and the unit. -/
theorem notReadyStatus {d : Nat} (hd : d < 4) :
    st0TopTwo ||| st0NotReady ||| headUnit false (BitVec.ofNat 2 d) = 0xC8 ||| BitVec.ofNat 8 d := by
  interval_cases d <;> rfl

theorem pendStatus_notReady {s : State} {d : Nat} (hd : d < 4) (hslot : d < s.drives.length) :
    (pendStatus d (st0TopTwo ||| st0NotReady) s).drive d =
      { s.drive d with pending := some (0xC8 ||| BitVec.ofNat 8 d) } := by
  rw [← notReadyStatus hd]
  exact drive_setDrive s d { s.drive d with
    pending := some (st0TopTwo ||| st0NotReady ||| headUnit false (BitVec.ofNat 2 d)) } hslot

theorem commandUses_iff (s : State) (d : Nat) :
    commandUses s d = true ↔
      s.ctrl.job.step ≠ .none ∧ s.ctrl.job.step ≠ .draining ∧ s.ctrl.job.unit.toNat = d := by
  simp [commandUses, State.job, and_assoc]

theorem notReadyEnd_eq (d : Nat) (s : State) :
    notReadyEnd d s = if s.ctrl.job.step ≠ .none ∧ s.ctrl.job.step ≠ .draining ∧ s.ctrl.job.unit.toNat = d
      then .complete 0xC8 s.ctrl.job.st1 s.ctrl.job.st2 else .reportNotReady d :=
  if_congr (commandUses_iff s d) rfl rfl

theorem deliver_notReady {s : State} {d : Nat} (hat : s.resetAt ≠ some s.now) :
    deliver (.notReady d) s = .ok (
      if s.live.drive = some d then (setReady d false s).issue (syncThen (.afterNotReady d))
      else if commandUses s d then (setReady d false s).issue [.client (notReadyEnd d s)]
      else pendStatus d (st0TopTwo ||| st0NotReady) (setReady d false s)) := by
  have hready : readyChanged d (st0TopTwo ||| st0NotReady) (setReady d false s) =
      pendStatus d (st0TopTwo ||| st0NotReady) (setReady d false s) :=
    if_neg (by simpa [atReset, setReady] using hat)
  rw [deliver_of_no_reset _ hat, handle, hready]

/-! An index pulse (46_command_engine R296, R301). -/

theorem hasFlag_overrun (s : State) : hasFlag flagOverrun s = s.live.flags.getLsbD 2 := by
  have hbit : ∀ flags : BitVec 3, ((flags &&& flagOverrun) != 0) = flags.getLsbD 2 := by decide
  exact hbit s.live.flags

/-- The pulses an ID search has seen, one more. -/
def countPulse (s : State) : State := s.setJob { s.job with idx := s.job.idx + 1 }

theorem afterIndex_scanId {s : State} (h : s.ctrl.job.step = .scanId) :
    afterIndex s = if s.par.idIndexLimit ≤ s.ctrl.job.idx + 1 then
      abortThen (.complete st0Abnormal ((if s.ctrl.job.kind = .readId then st1MissingMark else st1NoData) |||
        s.ctrl.job.st1) s.ctrl.job.st2) (countPulse s)
    else proceed (countPulse s) := by
  simp only [afterIndex, countPulse, State.job, h]
  rfl

/-- Settles O50: a dropping ready line by the drive it belongs to (`deliver_notReady`), the abnormal end
(`complete_abnormal`), and an index pulse by the step of the command (`afterIndex_scanId`, `complete_normal`). -/
theorem notReadyAndIndexResult : Obligations.NotReadyAndIndexResult := by
  unfold Obligations.NotReadyAndIndexResult
  refine ⟨?_, ?_, ?_⟩
  · rintro s _ d _ rfl hat hslot hd rfl
    rw [deliver_notReady hat]
    refine ⟨fun hlive => ?_, fun hlive hstep hdraining hunit => ?_, fun hlive hother => ?_, ?_, ?_, rfl⟩
    · rw [if_pos hlive]
      rfl
    · rw [if_neg hlive, if_pos ((commandUses_iff s d).2 ⟨hstep, hdraining, hunit⟩), notReadyEnd_eq,
        if_pos ⟨hstep, hdraining, hunit⟩]
      rfl
    · have hunused : ¬commandUses s d = true := by
        rw [commandUses_iff]
        tauto
      refine ⟨_, rfl, ?_, ?_, ?_⟩
      · rw [if_neg hlive, if_neg hunused]
        rfl
      · rw [if_neg hlive, if_neg hunused]
        rfl
      · rw [if_neg hlive, if_neg hunused]
        exact pendStatus_notReady hd (by simpa [setReady] using hslot)
    · rw [← notReadyEnd_eq]
      rfl
    · rw [show clientStep (.reportNotReady d) s = pendStatus d (st0TopTwo ||| st0NotReady) s from rfl,
        pendStatus_notReady hd hslot]
  · rintro s _ _ st0 st1 st2 rfl hbuf hst0 rfl
    exact complete_abnormal st1 st2 hst0 hbuf
  · rintro s _ _ rfl rfl
    have hafter : clientStep .afterIndex s = afterIndex s := rfl
    rw [hafter]
    refine ⟨fun hstep hlimit => ?_, fun hstep hlimit hrun => ?_, fun hstep hrun => ?_, fun hstep => ?_,
      fun hstep => ?_, ?_⟩
    · rw [afterIndex_scanId hstep, if_pos hlimit]
      rfl
    · rw [afterIndex_scanId hstep, if_neg hlimit.not_ge, proceed_runs (s := countPulse s) hrun]
      exact ⟨rfl, rfl⟩
    · simp only [afterIndex, State.job, hstep]
      exact proceed_runs hrun
    · simp only [afterIndex, State.job, hstep]
      exact ⟨rfl, rfl⟩
    · simp only [afterIndex, State.job, hstep]
      rfl
    · rintro hformat hbuf _ rfl
      have hdone : clientStep .formatDone s = formatDone s := rfl
      rw [hdone, formatDone, hasFlag_overrun]
      refine ⟨fun hover => ?_, fun hclear => ?_⟩
      · rw [if_pos hover]
        obtain ⟨hphase, -, -, -, hbytes, -⟩ :=
          complete_abnormal (s := s) (st0 := st0Abnormal) st1Overrun 0 (by decide) hbuf
        exact ⟨hphase, hbytes⟩
      · rw [if_neg (by rw [hclear]; decide)]
        obtain ⟨hinbox, hbytes⟩ := complete_normal (s := s) 0 0 hbuf (.inl (by rw [hformat]; rfl))
        exact ⟨hinbox, by rw [hbytes]; rfl⟩

end Sys2Proof.Proofs
end

section
/-! Host commands without an execution phase (46_command_engine R290 to R295, R304, R307, R310): a command ignored, the state
an accepted command finds, and what SPECIFY, CONFIGURE, LOCK and the status commands store and answer. -/

namespace Sys2Proof.Proofs

open Sys2Proof.Machine Sys2Proof.Safety Sys2Proof.Laws

/-! Acceptance. -/

/-- Settles O39: every host command is accepted or ignored as a whole (`accepted_ignored`). -/
theorem commandsOutsideCommandPhaseIgnored : Obligations.CommandsOutsideCommandPhaseIgnored := by
  unfold Obligations.CommandsOutsideCommandPhaseIgnored
  intro s i hi hignored
  cases i with
  | readTrack _ | specify _ _ _ | senseDriveStatus _ _ | writeData _ | readData _ | recalibrate _ _
  | senseInterruptStatus _ | writeDeletedData _ | readId _ _ | readDeletedData _ | formatTrack _ _ _ _ _ _ | dumpReg _
  | seek _ _ _ | version _ | scanEqual _ | configure _ _ _ _ | lock _ | scanLowOrEqual _ | scanHighOrEqual _ =>
    dsimp only [exec]
    exact accepted_ignored _ hignored
  | _ => cases hi

/-- `y` is the state an accepted command finds: `x`, which has `cfg.tc_done` clear, with the command buffer empty and the
terminal count cleared (46_command_engine R290, R297). -/
structure Begins (s x y : State) : Prop where
  accepts (f : State → State) : accepted s f = .next ((f y).setOutcome .none)
  state : y = x.setCtrl { s.ctrl with cmdBuf := [], tc := false }
  par : y.par = s.par
  pll : y.pll = s.pll
  now : y.now = s.now
  fifo : y.fifo = s.fifo
  inbox : y.inbox = s.inbox
  drives : y.drives = s.drives
  ctrl : y.ctrl = { s.ctrl with cmdBuf := [], tc := false }
  cfg : y.cfg = { s.cfg with tcDone := false }
  live : s.live.drive = none → y.live = s.live ∧ y.snap = s.snap

theorem Begins.drive {s x y : State} (h : Begins s x y) (d : Nat) : y.drive d = s.drive d :=
  congrArg (fun drives => drives.getD d (Drive.reset Medium.none)) h.drives

/-- Storing `cfg` and changing the controller do not meet. -/
theorem writeCfg_setCtrl (c : Cfg) (k : Controller) (s : State) :
    writeCfg c (s.setCtrl k) = (writeCfg c s).setCtrl k := by
  rw [writeCfg, writeCfg, apply_ite (State.setCtrl · k)]
  rfl

/-- A command in the COMMAND phase begins. -/
theorem command_begins {s x : State} (hcommand : s.ctrl.phase = .command) (hreset : heldInReset s = false)
    (hx : x = writeCfg { s.cfg with tcDone := false } s) : ∃ y : State, Begins s x y := by
  refine ⟨x.setCtrl { s.ctrl with cmdBuf := [], tc := false }, fun f => ?_, rfl, ?_, ?_, ?_, ?_, ?_, ?_, rfl, ?_,
    fun hidle => ?_⟩
  · rw [accepted_command f hcommand hreset, writeCfg_setCtrl, hx]
  all_goals simp only [hx, setCtrl_par, setCtrl_pll, setCtrl_now, setCtrl_fifo, setCtrl_inbox, setCtrl_drives,
    setCtrl_cfg, setCtrl_live, setCtrl_snap, writeCfg_par, writeCfg_pll, writeCfg_now, writeCfg_fifo, writeCfg_inbox,
    writeCfg_drives, writeCfg_cfg]
  rw [writeCfg_idle hidle]
  exact ⟨rfl, rfl⟩

/-! Commands that store, or answer at once. -/

theorem toCommand_of_command {s : State} (h : s.ctrl.phase = .command) :
    toCommand s = s.setCtrl { s.ctrl with cmdBuf := [], resBuf := [] } := by
  rw [toCommand, ← h]

/-- An answer that fits the result buffer. -/
theorem toResult_eq {kind : JobKind} {bytes : List Byte} {s : State} (hbuf : bytes.length ≤ s.par.resBufLen) :
    toResult kind bytes s = s.setCtrl { s.ctrl with
      phase := .result, cmdBuf := [], resBuf := bytes, intrq := true, job := { Job.empty with kind := kind } } := by
  rw [toResult, List.take_of_length_le hbuf]

theorem takeFrees_length (n : Nat) (s : State) : (takeFrees n s).1.length = n := by
  induction n generalizing s with
  | zero => rfl
  | succ n ih => exact congrArg (· + 1) (ih { s with freeCount := s.freeCount + 1 })

/-- Free bytes move nothing but their own count. -/
theorem takeFrees_state (n : Nat) (s : State) : (takeFrees n s).2 = { s with freeCount := s.freeCount + n } := by
  induction n generalizing s with
  | zero => rfl
  | succ n ih =>
    have hfirst : (takeFrees (n + 1) s).2 = (takeFrees n { s with freeCount := s.freeCount + 1 }).2 := rfl
    rw [hfirst, ih, Nat.add_comm n, Nat.add_assoc]

/-- A command that answers with free bytes (log 25). -/
theorem freeResult_eq {n : Nat} {s : State} (hbuf : n ≤ s.par.resBufLen) :
    freeResult n s = { s with
      freeCount := s.freeCount + n
      ctrl := { s.ctrl with
        phase := .result, cmdBuf := [], resBuf := (takeFrees n s).1, intrq := true
        job := { Job.empty with kind := .other } } } := by
  have hfits : (takeFrees n s).1.length ≤ (takeFrees n s).2.par.resBufLen := by
    rwa [takeFrees_length, takeFrees_state]
  have hanswer : freeResult n s = toResult .other (takeFrees n s).1 (takeFrees n s).2 := rfl
  rw [hanswer, toResult_eq hfits, takeFrees_state]
  rfl

/-- ST3 bit by bit (46_command_engine R307, log 48). -/
theorem st3Of_bits (d : Drive) (hu : Byte) (st3 : Byte) (h : st3 = st3Of d (headOf hu) (unitOf hu)) :
    st3.getLsbD 7 = false ∧ st3.getLsbD 6 = d.med.wp ∧ st3.getLsbD 5 = d.med.ready ∧ st3.getLsbD 4 = d.med.track0 ∧
      st3.getLsbD 3 = d.med.side ∧ st3.getLsbD 2 = hu.getLsbD 2 ∧ st3.getLsbD 1 = hu.getLsbD 1 ∧
      st3.getLsbD 0 = hu.getLsbD 0 := by
  subst h
  simp [st3Of, headUnit, headOf, unitOf]

/-- Settles O40: each command is its effect on the state an accepted command finds (`accepted_begun`). -/
theorem answeringCommandsResult : Obligations.AnsweringCommandsResult := by
  unfold Obligations.AnsweringCommandsResult
  intro s x flags hu hcommand hreset hbuf hx
  obtain ⟨y, hy⟩ := command_begins hcommand hreset hx
  have hphase : y.ctrl.phase = .command := by rw [hy.ctrl, ← hcommand]
  have hone : 1 ≤ y.par.resBufLen := by
    rw [hy.par]
    omega
  refine ⟨fun b1 b2 => ?_, fun b1 b2 b3 => ?_, ?_, ?_, ?_⟩
  · rw [exec, execSpecify, hy.accepts, toCommand_of_command (by exact hphase), hy.state]
    rfl
  · rw [exec, execConfigure, hy.accepts, toCommand_of_command (by exact hphase), hy.state]
    rfl
  · have hbyte : ∀ on : Bool, ((BitVec.ofBool on).zeroExtend 8 <<< 4 : Byte) = if on then 0x10 else 0 := by decide
    rw [exec, execLock, hy.accepts]
    dsimp only
    rw [toResult_eq (by exact hone), hbyte, hy.state]
    rfl
  · refine ⟨_, _, _, rfl, hy.accepts _, ?_, st3Of_bits (s.drive (hu.toNat % 4)) hu _ rfl⟩
    rw [senseDrive, toResult_eq (by exact hone), hy.drive, unitOf_toNat, hy.state]
    rfl
  · intro i n hi
    have hexec : exec i s = accepted s (freeResult n) := by
      rcases hi with ⟨rfl, rfl⟩ | ⟨rfl, rfl⟩ <;> rfl
    have hfits : n ≤ y.par.resBufLen := by
      rw [hy.par]
      omega
    refine ⟨_, (takeFrees n y).1, takeFrees_length n _, hexec.trans (hy.accepts _), ?_⟩
    rw [freeResult_eq hfits, hy.state]
    rfl

/-! SENSE INTERRUPT STATUS (46_command_engine R293). -/

/-- The first pending status is collected. -/
theorem senseInterrupt_pending {s : State} {u : Nat} {st0 : Byte} (hbuf : 2 ≤ s.par.resBufLen)
    (hfirst : firstPending s.drives = some u) (hpending : (s.drive u).pending = some st0) :
    senseInterrupt s = (s.setDrive u { s.drive u with pending := none, st0 := st0 }).setCtrl { s.ctrl with
      phase := .result
      cmdBuf := []
      resBuf := [st0, (s.drive u).pcn]
      intrq := (firstPending (s.setDrive u { s.drive u with pending := none, st0 := st0 }).drives).isSome
      job := { Job.empty with kind := .senseInterrupt }
      st0 := st0 } := by
  simp only [senseInterrupt, hfirst, hpending, Option.getD_some]
  rw [toResult_eq (by exact hbuf)]
  rfl

/-- Nothing is pending: ST0 is unknown, and the second byte is not given. -/
theorem senseInterrupt_none {s : State} (hbuf : 2 ≤ s.par.resBufLen) (hfirst : firstPending s.drives = none) :
    senseInterrupt s = { s with
      freeCount := s.freeCount + 1
      ctrl := { s.ctrl with
        phase := .result
        cmdBuf := []
        resBuf := [0xC0, Config.freeByte s.freeCount]
        st0 := 0xC0
        intrq := false
        job := { Job.empty with kind := .senseInterrupt } } } := by
  simp only [senseInterrupt, hfirst, takeFree]
  rw [toResult_eq (by exact hbuf)]
  rfl

/-- Settles O41, by whether a status is pending (`firstPending_lowest`, `firstPending_none`). -/
theorem senseInterruptResult : Obligations.SenseInterruptResult := by
  unfold Obligations.SenseInterruptResult
  intro s x flags hcommand hreset hbuf hx
  obtain ⟨y, hy⟩ := command_begins hcommand hreset hx
  have hexec : exec (.senseInterruptStatus flags) s = .next ((senseInterrupt y).setOutcome .none) := hy.accepts _
  have hfits : 2 ≤ y.par.resBufLen := by rwa [hy.par]
  refine ⟨fun u st0 hu hpending hlower => ?_, fun hnone => ?_⟩
  · have hfirst : firstPending y.drives = some u := by
      rw [hy.drives]
      exact firstPending_lowest hu (by rw [← State.drive, hpending]; rfl) hlower
    have hslot : u < y.drives.length := by rwa [hy.drives]
    rw [senseInterrupt_pending hfits hfirst (by rwa [hy.drive]), hy.drive] at hexec
    refine ⟨_, hexec, rfl, rfl, rfl, drive_setDrive y u _ hslot, fun v hv => ?_, ?_, ?_⟩
    · exact (drive_setDrive_other y u v _ hv).trans (hy.drive v)
    · simp only [← Option.isSome_iff_ne_none]
      exact firstPending_isSome _
    · rw [hy.state]
      rfl
  · have hfirst : firstPending y.drives = none := by
      rw [hy.drives]
      exact firstPending_none hnone
    rw [senseInterrupt_none hfits hfirst] at hexec
    refine ⟨_, Config.freeByte y.freeCount, hexec, ?_⟩
    rw [hy.state]
    rfl

end Sys2Proof.Proofs
end

section
/-! Seeks (46_command_engine R309, log 20): what a pulse, an arrival and an interruption leave of a drive's slot, and SEEK
and RECALIBRATE at the command and at every step time. -/

namespace Sys2Proof.Proofs

open Sys2Proof.Machine Sys2Proof.Safety Sys2Proof.Laws

/-! What moves: one slot, and INTRQ. -/

/-- Nothing but the slot of drive `u` and INTRQ differs. -/
def SlotMoved (u : Nat) (s t : State) : Prop :=
  (∃ b : Bool, t = { s with ctrl := { s.ctrl with intrq := b }, drives := t.drives }) ∧
    ∀ v : Nat, v ≠ u → t.drive v = s.drive v

theorem SlotMoved.trans {u : Nat} {a b c : State} (h : SlotMoved u a b) (k : SlotMoved u b c) : SlotMoved u a c := by
  obtain ⟨⟨i, hi⟩, hother⟩ := h
  obtain ⟨⟨j, hj⟩, kother⟩ := k
  exact ⟨⟨j, hj.trans (by rw [hi])⟩, fun v hv => (kother v hv).trans (hother v hv)⟩

theorem setDrive_slotMoved (u : Nat) (x : Drive) (s : State) : SlotMoved u s (s.setDrive u x) :=
  ⟨⟨s.ctrl.intrq, rfl⟩, fun v hv => drive_setDrive_other s u v x hv⟩

theorem raiseIntrq_slotMoved (u : Nat) (s : State) : SlotMoved u s (raiseIntrq s) := ⟨⟨true, rfl⟩, fun _ _ => rfl⟩

theorem seekDone_slotMoved (u : Nat) (st0 : Byte) (s : State) : SlotMoved u s (seekDone u st0 s) :=
  ((setDrive_slotMoved u _ s).trans (setDrive_slotMoved u _ _)).trans (raiseIntrq_slotMoved u _)

theorem stepPulse_slotMoved (u : Nat) (out : Bool) (s : State) : SlotMoved u s (stepPulse u out s) :=
  setDrive_slotMoved u _ s

theorem recalibrateStep_slotMoved (u : Nat) (s : State) : SlotMoved u s (recalibrateStep u s) := by
  unfold recalibrateStep
  dsimp only
  split_ifs
  · exact (setDrive_slotMoved u _ s).trans (seekDone_slotMoved u _ _)
  · exact seekDone_slotMoved u _ s
  · exact stepPulse_slotMoved u _ s

theorem seekStep_slotMoved (u : Nat) (s : State) : SlotMoved u s (seekStep u s) := by
  unfold seekStep
  dsimp only
  split_ifs
  · exact seekDone_slotMoved u _ s
  · exact (setDrive_slotMoved u _ s).trans (stepPulse_slotMoved u _ _)

theorem seekTick_slotMoved (u : Nat) (s : State) : SlotMoved u s (seekTick u s) := by
  unfold seekTick
  dsimp only
  split
  · exact ((setDrive_slotMoved u _ s).trans (setDrive_slotMoved u _ _)).trans (recalibrateStep_slotMoved u _)
  · exact (setDrive_slotMoved u _ s).trans (seekStep_slotMoved u _)
  · exact setDrive_slotMoved u _ s

theorem interruptSeek_slotMoved (u : Nat) (s : State) : SlotMoved u s (interruptSeek u s) := by
  unfold interruptSeek
  split
  · exact seekDone_slotMoved u _ s
  · exact ⟨⟨s.ctrl.intrq, rfl⟩, fun _ _ => rfl⟩

/-! What the slot becomes. -/

/-- The slot of drive `u` after a seek that ends with this status. -/
def slotDone (u : Nat) (st0 : Byte) (d : Drive) : Drive :=
  { d with
    mainState := .idle
    subState := .commandDone
    pending := some (st0 ||| headUnit false (BitVec.ofNat 2 u))
    stepAt := none }

/-- The slot of a drive after a pulse, with the end of the step time. -/
def slotPulsed (stepEnd : Nat) (out : Bool) (d : Drive) : Drive :=
  { d with steps := d.steps + 1, dirOut := out, subState := .seekWaitStepSignalTime, stepAt := some stepEnd }

/-- The end of a step time that begins now. -/
def stepEnd (s : State) : Nat := s.now + Config.stepInterval (s.ctrl.spec1.extractLsb' 4 4)

theorem headUnit_unit {u : Nat} (hu : u < 4) : headUnit false (BitVec.ofNat 2 u) = BitVec.ofNat 8 u := by
  interval_cases u <;> rfl

theorem slotDone_unit {u : Nat} (st0 : Byte) (d : Drive) (hu : u < 4) :
    slotDone u st0 d = { d with
      mainState := .idle, subState := .commandDone, pending := some (st0 ||| BitVec.ofNat 8 u), stepAt := none } := by
  rw [slotDone, headUnit_unit hu]

theorem setDrive_setDrive (u : Nat) (x y : Drive) (s : State) : (s.setDrive u x).setDrive u y = s.setDrive u y := by
  simp only [State.setDrive, List.set_set]

section Slot

variable {u : Nat} {s : State} (hu : u < s.drives.length)
include hu

theorem seekDone_eq (st0 : Byte) : seekDone u st0 s = raiseIntrq (s.setDrive u (slotDone u st0 (s.drive u))) := by
  rw [seekDone, pendStatus, drive_setDrive s u _ hu, setDrive_setDrive]
  rfl

theorem seekDone_setDrive (st0 : Byte) (x : Drive) :
    seekDone u st0 (s.setDrive u x) = raiseIntrq (s.setDrive u (slotDone u st0 x)) := by
  rw [seekDone_eq (by simpa using hu), drive_setDrive s u x hu, setDrive_setDrive]

theorem stepPulse_setDrive (out : Bool) (x : Drive) :
    stepPulse u out (s.setDrive u x) = s.setDrive u (slotPulsed (stepEnd s) out x) := by
  rw [stepPulse, drive_setDrive s u x hu, setDrive_setDrive]
  rfl

/-- RECALIBRATE at track 0 has arrived. -/
theorem recalibrateStep_home {x : Drive} (h : x.med.track0 = true) :
    recalibrateStep u (s.setDrive u x) = raiseIntrq (s.setDrive u (slotDone u 0x20 { x with pcn := 0 })) := by
  rw [recalibrateStep, drive_setDrive s u x hu, if_pos h, setDrive_setDrive, seekDone_setDrive hu]
  rfl

/-- RECALIBRATE past the retry bound has failed. -/
theorem recalibrateStep_failed {x : Drive} (h : x.med.track0 = false) (hbound : Config.seekRetryBound < x.retries) :
    recalibrateStep u (s.setDrive u x) = raiseIntrq (s.setDrive u (slotDone u 0x70 x)) := by
  rw [recalibrateStep, drive_setDrive s u x hu, if_neg (by simp [h]), if_pos hbound, seekDone_setDrive hu]
  rfl

/-- RECALIBRATE elsewhere sends a pulse towards track 0. -/
theorem recalibrateStep_pulses {x : Drive} (h : x.med.track0 = false) (hbound : x.retries ≤ Config.seekRetryBound) :
    recalibrateStep u (s.setDrive u x) = s.setDrive u (slotPulsed (stepEnd s) false x) := by
  rw [recalibrateStep, drive_setDrive s u x hu, if_neg (by simp [h]), if_neg hbound.not_gt, stepPulse_setDrive hu]

/-- SEEK at its target has arrived. -/
theorem seekStep_arrived {x : Drive} (h : x.pcn = x.target) :
    seekStep u (s.setDrive u x) = raiseIntrq (s.setDrive u (slotDone u 0x20 x)) := by
  rw [seekStep, drive_setDrive s u x hu, if_pos h, seekDone_setDrive hu]
  rfl

/-- SEEK elsewhere sends a pulse towards its target, and the present cylinder follows. -/
theorem seekStep_pulses {x : Drive} (h : x.pcn ≠ x.target) :
    seekStep u (s.setDrive u x) = s.setDrive u (slotPulsed (stepEnd s) (decide (x.pcn < x.target))
      { x with pcn := if x.pcn < x.target then x.pcn + 1 else x.pcn - 1 }) := by
  rw [seekStep, drive_setDrive s u x hu, if_neg h, seekPulse, drive_setDrive s u x hu, setDrive_setDrive,
    stepPulse_setDrive hu]
  simp only [decide_eq_true_eq]

/-- The step time of a RECALIBRATE is over: one retry more. -/
theorem seekTick_recalibrate (h : (s.drive u).mainState = .recalibrate) :
    seekTick u s = recalibrateStep u
      (s.setDrive u { s.drive u with stepAt := none, retries := (s.drive u).retries + 1 }) := by
  rw [seekTick]
  simp only [h]
  rw [drive_setDrive s u _ hu, setDrive_setDrive]

end Slot

/-- The step time of a SEEK is over. -/
theorem seekTick_seek {u : Nat} {s : State} (h : (s.drive u).mainState = .seek) :
    seekTick u s = seekStep u (s.setDrive u { s.drive u with stepAt := none }) := by
  rw [seekTick]
  simp only [h]

/-! At the command. -/

/-- The slot of drive `u` when a command takes it: a seek under way is ended (46_command_engine R306, log 20). -/
def slotTaken (u : Nat) (d : Drive) : Drive := if d.seeking then slotDone u 0x60 d else d

theorem interruptSeek_drive {u : Nat} {s : State} (hu : u < s.drives.length) :
    (interruptSeek u s).drive u = slotTaken u (s.drive u) := by
  by_cases hseeking : (s.drive u).seeking = true
  · rw [slotTaken, if_pos hseeking]
    exact interruptSeek_seeking hu hseeking
  · rw [slotTaken, if_neg hseeking, interruptSeek_idle (eq_false_of_ne_true hseeking)]

theorem interruptSeek_length (u : Nat) (s : State) : (interruptSeek u s).drives.length = s.drives.length := by
  unfold interruptSeek
  split
  · simp [seekDone, pendStatus, raiseIntrq]
  · rfl

/-- A seek ended before leaves no trace in the status of the next one. -/
theorem slotTaken_eq (u : Nat) (d : Drive) :
    slotTaken u d = { d with
      mainState := (slotTaken u d).mainState
      subState := (slotTaken u d).subState
      pending := if d.seeking then some (0x60 ||| headUnit false (BitVec.ofNat 2 u)) else d.pending
      stepAt := (slotTaken u d).stepAt } := by
  unfold slotTaken
  split <;> rfl

/-- The controller in COMMAND, a seek of drive `u` ended: where SEEK and RECALIBRATE begin. -/
def seekBegins (u : Nat) (s : State) : State := toCommand (interruptSeek u s)

theorem seekBegins_frame (u : Nat) (s : State) :
    seekBegins u s = { s with ctrl := (seekBegins u s).ctrl, drives := (seekBegins u s).drives } := by
  obtain ⟨⟨b, hb⟩, -⟩ := interruptSeek_slotMoved u s
  rw [seekBegins, hb]
  rfl

theorem seekBegins_intrq (u : Nat) (s : State) :
    (seekBegins u s).ctrl.intrq = (s.ctrl.intrq || (s.drive u).seeking) := by
  rw [seekBegins, interruptSeek_frame]
  rfl

theorem seekBegins_stepEnd (u : Nat) (s : State) : stepEnd (seekBegins u s) = stepEnd s := by
  rw [seekBegins, interruptSeek_frame]
  rfl

/-- The slot of a drive where a SEEK or RECALIBRATE starts to move. -/
def slotMoving (main : MainState) (goal : Byte) (u : Nat) (d : Drive) : Drive :=
  { slotTaken u d with mainState := main, subState := .seekMove, target := goal, retries := 0 }

section BeginSeek

variable {u : BitVec 2} {s : State} (main : MainState) (goal : Byte) (hu : u.toNat < s.drives.length)
include hu

theorem unitReady_seekBegins : unitReady (seekBegins u.toNat s) u = unitReady s u := by
  have hdrive : (seekBegins u.toNat s).drive u.toNat = slotTaken u.toNat (s.drive u.toNat) := interruptSeek_drive hu
  have hpar : (seekBegins u.toNat s).par = s.par := by rw [seekBegins_frame]
  rw [unitReady, hdrive, hpar, slotTaken_eq]
  rfl

/-- A drive that is not ready ends the seek at once. -/
theorem beginSeek_notReady (hready : unitReady s u = false) :
    beginSeek main u goal s =
      raiseIntrq ((seekBegins u.toNat s).setDrive u.toNat (slotDone u.toNat 0x48 (s.drive u.toNat))) := by
  have hslot : u.toNat < (seekBegins u.toNat s).drives.length := by rwa [← interruptSeek_length u.toNat s] at hu
  have hdrive : (seekBegins u.toNat s).drive u.toNat = slotTaken u.toNat (s.drive u.toNat) := interruptSeek_drive hu
  rw [← unitReady_seekBegins hu] at hready
  have hends : beginSeek main u goal s = seekDone u.toNat 0x48 (seekBegins u.toNat s) := if_pos hready
  rw [hends, seekDone_eq hslot, hdrive, slotTaken_eq]
  rfl

/-- A ready drive starts where it stands. -/
theorem beginSeek_ready (hready : unitReady s u = true) :
    beginSeek main u goal s =
      if main = .recalibrate then
        recalibrateStep u.toNat
          ((seekBegins u.toNat s).setDrive u.toNat (slotMoving main goal u.toNat (s.drive u.toNat)))
      else
        seekStep u.toNat
          ((seekBegins u.toNat s).setDrive u.toNat (slotMoving main goal u.toNat (s.drive u.toNat))) := by
  have hdrive : (seekBegins u.toNat s).drive u.toNat = slotTaken u.toNat (s.drive u.toNat) := interruptSeek_drive hu
  rw [← unitReady_seekBegins hu] at hready
  rw [slotMoving, ← hdrive]
  exact if_neg (ne_of_eq_of_ne hready (by decide))

end BeginSeek

/-- SEEK and RECALIBRATE move the slot of their unit and INTRQ, from where they begin. -/
theorem beginSeek_slotMoved (main : MainState) (u : BitVec 2) (goal : Byte) (s : State) :
    SlotMoved u.toNat (seekBegins u.toNat s) (beginSeek main u goal s) := by
  unfold beginSeek
  dsimp only
  split_ifs
  · exact seekDone_slotMoved _ _ _
  · exact (setDrive_slotMoved _ _ _).trans (recalibrateStep_slotMoved _ _)
  · exact (setDrive_slotMoved _ _ _).trans (seekStep_slotMoved _ _)

/-- The status of a seek that begins and ends at once takes nothing from a seek ended before it. -/
theorem slotDone_moving {u : Nat} (hu : u < 4) (main : MainState) (goal : Byte) (d : Drive) :
    slotDone u 0x20 (slotMoving main goal u d) = { d with
      mainState := .idle, subState := .commandDone, target := goal, retries := 0
      pending := some (0x20 ||| BitVec.ofNat 8 u), stepAt := none } := by
  rw [slotDone_unit _ _ hu, slotMoving, slotTaken_eq]

section Moving

variable (main : MainState) (goal : Byte) (u : Nat) (d : Drive)

@[simp] theorem slotMoving_med : (slotMoving main goal u d).med = d.med := by rw [slotMoving, slotTaken_eq]
@[simp] theorem slotMoving_pcn : (slotMoving main goal u d).pcn = d.pcn := by rw [slotMoving, slotTaken_eq]
@[simp] theorem slotMoving_steps : (slotMoving main goal u d).steps = d.steps := by rw [slotMoving, slotTaken_eq]

@[simp] theorem slotMoving_target : (slotMoving main goal u d).target = goal := rfl

theorem slotMoving_pending (hu : u < 4) :
    (slotMoving main goal u d).pending = if d.seeking then some (0x60 ||| BitVec.ofNat 8 u) else d.pending := by
  rw [slotMoving, slotTaken_eq, headUnit_unit hu]

end Moving

/-- A unit is ready for the command that begins as it was before (46_command_engine R305, log 61). -/
theorem Begins.unitReady {s x y : State} (hy : Begins s x y) (u : BitVec 2) :
    unitReady y u = (decide (u.toNat < s.par.ndrives) && (s.drive u.toNat).med.ready) := by
  rw [Machine.unitReady, hy.par, hy.drive]

/-- SEEK and RECALIBRATE go back to COMMAND, with the slot of their unit and the controller alone moved. -/
theorem beginSeek_frame {s x y t : State} (hy : Begins s x y) (main : MainState) (u : BitVec 2) (goal : Byte)
    (ht : t = (beginSeek main u goal y).setOutcome .none) :
    t.ctrl.phase = .command ∧ t = { x with outcome := .none, ctrl := t.ctrl, drives := t.drives } ∧
      ∀ v : Nat, v ≠ u.toNat → t.drive v = s.drive v := by
  obtain ⟨⟨b, hb⟩, hother⟩ := beginSeek_slotMoved main u goal y
  obtain ⟨-, hbegins⟩ := interruptSeek_slotMoved u.toNat y
  subst ht
  refine ⟨?_, ?_, fun v hv => (hother v hv).trans ((hbegins v hv).trans (hy.drive v))⟩
  · rw [setOutcome_ctrl, hb]
    rfl
  · rw [hb, seekBegins_frame, hy.state]
    rfl

/-- Settles O42: the command by the ready line and by where the drive stands (`beginSeek_notReady`, `beginSeek_ready`),
the end of a step time by where it stands then (`seekTick_seek`, `seekTick_recalibrate`). -/
theorem seekCommandsResult : Obligations.SeekCommandsResult := by
  unfold Obligations.SeekCommandsResult
  refine ⟨?_, ?_⟩
  · intro s x flags hu ncn u i main goal hcommand hreset hunit hslot hx hi
    obtain ⟨y, hy⟩ := command_begins hcommand hreset hx
    have hexec : exec i s = .next ((beginSeek main (unitOf hu) goal y).setOutcome .none) := by
      rcases hi with ⟨rfl, rfl, rfl⟩ | ⟨rfl, rfl, rfl⟩
      · exact hy.accepts _
      · exact hy.accepts _
    obtain rfl : (unitOf hu).toNat = u := by rw [unitOf_toNat, hunit]
    clear hunit hi
    generalize unitOf hu = U at *
    have hU : U.toNat < 4 := U.isLt
    have hy_slot : U.toNat < y.drives.length := by rwa [hy.drives]
    have hslot' : U.toNat < (seekBegins U.toNat y).drives.length := by rwa [← interruptSeek_length U.toNat y] at hy_slot
    have hend : stepEnd (seekBegins U.toNat y) = s.now + Config.stepInterval (s.ctrl.spec1.extractLsb' 4 4) := by
      rw [seekBegins_stepEnd, stepEnd, hy.now, hy.ctrl]
    have hintrq : (seekBegins U.toNat y).ctrl.intrq = (s.ctrl.intrq || (s.drive U.toNat).seeking) := by
      rw [seekBegins_intrq, hy.ctrl, hy.drive]
    obtain ⟨hphase, hframe, hother⟩ := beginSeek_frame hy main U goal rfl
    refine ⟨_, _, rfl, hexec, hphase, hframe, hother, fun hunready => ?_, ?_⟩
    · have hready : unitReady y U = false := by
        rw [hy.unitReady]
        by_cases hexists : U.toNat < s.par.ndrives
        · rw [hunready hexists, Bool.and_false]
        · rw [decide_eq_false hexists, Bool.false_and]
      rw [setOutcome_drive, setOutcome_ctrl, beginSeek_notReady main goal hy_slot hready, hy.drive]
      exact ⟨(drive_setDrive _ U.toNat _ hslot').trans (slotDone_unit _ _ hU), rfl⟩
    · rintro hexists hmed _ rfl
      have hready : unitReady y U = true := by rw [hy.unitReady, hmed, decide_eq_true hexists]; rfl
      rw [setOutcome_drive, setOutcome_ctrl, beginSeek_ready main goal hy_slot hready, hy.drive]
      refine ⟨fun hmain hat => ?_, fun hmain hat => ?_, fun hmain hat => ?_, fun hmain hat => ?_⟩
      · rw [if_pos hmain, recalibrateStep_home hslot' (by simpa using hat)]
        refine ⟨(drive_setDrive _ U.toNat _ hslot').trans ?_, rfl⟩
        rw [← slotDone_moving hU main goal (s.drive U.toNat)]
        rfl
      · rw [if_neg (by rw [hmain]; decide), seekStep_arrived hslot' (by simpa using hat)]
        exact ⟨(drive_setDrive _ U.toNat _ hslot').trans (slotDone_moving hU main goal _), rfl⟩
      · rw [if_pos hmain, recalibrateStep_pulses hslot' (by simpa using hat) (Nat.zero_le _), setDrive_ctrl,
          drive_setDrive _ U.toNat _ hslot', hend]
        exact ⟨congrArg (· + 1) (slotMoving_steps main goal ..), rfl, rfl, rfl, hintrq,
          slotMoving_pending main goal _ _ hU⟩
      · rw [if_neg (by rw [hmain]; decide), seekStep_pulses hslot' (by simpa using hat), setDrive_ctrl,
          drive_setDrive _ U.toNat _ hslot', hend, slotMoving_pcn, slotMoving_target]
        exact ⟨congrArg (· + 1) (slotMoving_steps main goal ..), rfl, rfl, rfl, rfl, hintrq,
          slotMoving_pending main goal _ _ hU⟩
  · rintro s t u _ _ hu hslot rfl rfl rfl hmoving
    obtain ⟨⟨b, hb⟩, hother⟩ := seekTick_slotMoved u s
    refine ⟨?_, hother, ?_, ?_⟩
    · rw [hb]
    · rintro st0 pcn n (⟨hmain, hat, rfl, rfl, rfl⟩ | ⟨hmain, hat, rfl, rfl, rfl⟩ |
        ⟨hmain, hat, hbound, rfl, rfl, rfl⟩)
      · rw [seekTick_seek hmain, seekStep_arrived hslot (by exact hat)]
        exact ⟨(drive_setDrive s u _ hslot).trans (slotDone_unit _ _ hu), rfl⟩
      · rw [seekTick_recalibrate hslot hmain, recalibrateStep_home hslot (by exact hat)]
        exact ⟨(drive_setDrive s u _ hslot).trans (slotDone_unit _ _ hu), rfl⟩
      · rw [seekTick_recalibrate hslot hmain, recalibrateStep_failed hslot (by exact hat) (by exact hbound)]
        exact ⟨(drive_setDrive s u _ hslot).trans (slotDone_unit _ _ hu), rfl⟩
    · rintro out pcn n (⟨hmain, hat, rfl, rfl, rfl⟩ | ⟨hmain, hat, hbound, rfl, rfl, rfl⟩)
      · rw [seekTick_seek hmain, seekStep_pulses hslot (by exact hat)]
        exact ⟨drive_setDrive s u _ hslot, rfl⟩
      · rw [seekTick_recalibrate hslot hmain, recalibrateStep_pulses hslot (by exact hat) (by exact hbound)]
        exact ⟨drive_setDrive s u _ hslot, rfl⟩

end Sys2Proof.Proofs
end

section
/-! The commands with an execution phase (46_command_engine R296 to R301, R305): the checks every one of them passes, and
how they end there. -/

namespace Sys2Proof.Proofs

open Sys2Proof.Machine Sys2Proof.Safety Sys2Proof.Laws

/-! The commands. -/

/-- A command with an execution phase: the checks of its drive, then its `cfg` and its head (46_command_engine R297,
R305). -/
def loadCommand (j : Job) (main : MainState) (cfgOf : State → Cfg) : State → State :=
  checkDrive j fun z => beginHeadLoad main (writeCfg (cfgOf z) z)

/-- The state the checks of a command find its drive in. -/
def jobBegins (j : Job) (y : State) : State := beginJob j (interruptSeek j.unit.toNat y)

/-- `cfg` as FORMAT TRACK sets it (46_command_engine R297). -/
def formatCfg (flags : BitVec 3) (n sc gpl d : Byte) (s : State) : Cfg :=
  { modeCfg (flagMode flags) s with
    sectorSize := sectorSizeOf n, damDeleted := false, fmtSectors := sc, fmtFill := d, fmtGap3 := gpl }

/-- What `exec_loadCommand` says of a command `i` for the head/unit byte `hu`. -/
def LoadsHead (i : Instr) (hu : Byte) : Prop :=
  ∃ (j : Job) (main : MainState) (cfgOf : State → Cfg), (∀ s, exec i s = accepted s (loadCommand j main cfgOf)) ∧
    j.unit = unitOf hu ∧ j.hd = headOf hu ∧ j.kind.toMedium = writesMedium i ∧
    ∀ bytes : List Byte, targetBytes i = some bytes → ¬(j.kind = .readId ∨ j.kind = .format) ∧ j.chrn = bytes

/-- The nine-byte commands name their target. -/
theorem dataCommand_loadsHead {i : Instr} {kind : JobKind} {main : MainState} {deleted : Bool} {a : DataArgs}
    (hexec : ∀ s, exec i s = accepted s (beginData kind main deleted a)) (hwrites : kind.toMedium = writesMedium i)
    (htarget : targetBytes i = some [a.c, a.h, a.r, a.n]) (hkind : ¬(kind = .readId ∨ kind = .format)) :
    LoadsHead i a.hu := by
  refine ⟨dataJob kind a, main, dataCfg deleted a, hexec, rfl, rfl, hwrites, fun bytes hbytes => ⟨hkind, ?_⟩⟩
  exact Option.some.inj (htarget.symm.trans hbytes)

/-- Every command with an execution phase on a drive passes the same checks, for the unit and head of its head/unit
byte. -/
theorem exec_loadCommand {i : Instr} {hu : Byte} (hi : headUnitByte i = some hu) : LoadsHead i hu := by
  cases i with
  | readTrack a | writeData a | readData a | writeDeletedData a | readDeletedData a | scanEqual a | scanLowOrEqual a
  | scanHighOrEqual a =>
    cases hi
    exact dataCommand_loadsHead (fun _ => rfl) rfl rfl nofun
  | readId flags _ =>
    cases hi
    exact ⟨unitJob .readId hu, .readId, modeCfg (flagMode flags), fun _ => rfl, rfl, rfl, rfl, nofun⟩
  | formatTrack flags _ n sc gpl d =>
    cases hi
    exact ⟨unitJob .format hu, .formatTrack, formatCfg flags n sc gpl d, fun _ => rfl, rfl, rfl, rfl, nofun⟩
  | _ => cases hi

/-! The checks. -/

theorem jobBegins_kept (j : Job) (y : State) : EngineKept y (jobBegins j y) :=
  (interruptSeek_kept _ y).trans (setCtrl_kept _ _)

section JobBegins

variable {s x y : State} (hy : Begins s x y) (j : Job)
include hy

theorem jobBegins_ctrl : (jobBegins j y).ctrl = { s.ctrl with
    phase := .execution, cmdBuf := [], resBuf := [], tc := false
    intrq := s.ctrl.intrq || (s.drive j.unit.toNat).seeking, job := j } := by
  rw [jobBegins, interruptSeek_frame, beginJob, ← hy.drive, setCtrl_ctrl, hy.ctrl]

theorem jobBegins_rest : (jobBegins j y).par = s.par ∧ (jobBegins j y).now = s.now ∧ (jobBegins j y).fifo = s.fifo ∧
    (jobBegins j y).inbox = s.inbox ∧ (jobBegins j y).cfg = { s.cfg with tcDone := false } := by
  rw [jobBegins, interruptSeek_frame]
  exact ⟨hy.par, hy.now, hy.fifo, hy.inbox, hy.cfg⟩

theorem jobBegins_live (hidle : s.live.drive = none) :
    (jobBegins j y).live = s.live ∧ (jobBegins j y).snap = s.snap := by
  obtain ⟨-, hlive, -, hsnap⟩ := jobBegins_kept j y
  obtain ⟨hylive, hysnap⟩ := hy.live hidle
  exact ⟨hlive.trans hylive, hsnap.trans hysnap⟩

theorem jobBegins_pll : (jobBegins j y).pll = s.pll := by
  obtain ⟨-, -, hpll, -⟩ := jobBegins_kept j y
  exact hpll.trans hy.pll

theorem jobBegins_med (d : Nat) : ((jobBegins j y).drive d).med = (s.drive d).med :=
  (interruptSeek_med j.unit.toNat y d).trans (congrArg Drive.med (hy.drive d))

theorem jobBegins_length : (jobBegins j y).drives.length = s.drives.length :=
  (interruptSeek_length j.unit.toNat y).trans (congrArg List.length hy.drives)

theorem jobBegins_drive (hu : j.unit.toNat < s.drives.length) :
    (jobBegins j y).drive j.unit.toNat = slotTaken j.unit.toNat (s.drive j.unit.toNat) := by
  rw [← hy.drive]
  exact interruptSeek_drive (by rwa [hy.drives])

theorem mediumReady_begins : mediumReady y j.unit =
    (decide (j.unit.toNat < s.par.ndrives) && (s.drive j.unit.toNat).med.ready &&
      (s.drive j.unit.toNat).med.present) := by
  rw [mediumReady, hy.unitReady, hy.drive]

end JobBegins

/-! Over before the engine is started. -/

theorem enterResult_drive (s : State) (d : Nat) :
    (enterResult s).drive d = (s.setSlot s.job.unit.toNat .idle .commandDone).drive d := by
  unfold enterResult beginHeadUnload
  dsimp only
  split <;> rfl

/-- The end of a command leaves its ST0 in the slot of its drive (10_state R42). -/
theorem endJob_slot_st0 {s : State} (st0 st1 st2 : Byte) (chrn : List Byte)
    (hu : s.ctrl.job.unit.toNat < s.drives.length) :
    ((endJob st0 st1 st2 chrn s).drive s.ctrl.job.unit.toNat).st0 =
      st0 ||| headUnit s.ctrl.job.hd s.ctrl.job.unit := by
  have hset : (setResult st0 st1 st2 chrn s).drive s.ctrl.job.unit.toNat = _ :=
    drive_setDrive s _ { s.drive s.ctrl.job.unit.toNat with
      st0 := st0 ||| headUnit s.ctrl.job.hd s.ctrl.job.unit } hu
  have hslot : s.ctrl.job.unit.toNat < (setResult st0 st1 st2 chrn s).drives.length := by
    simpa [setResult] using hu
  rw [endJob, enterResult_drive]
  refine (congrArg Drive.st0 (drive_setDrive (setResult st0 st1 st2 chrn s) _ _ hslot)).trans ?_
  exact congrArg Drive.st0 hset

/-- The end before a sector is done is an end at once. -/
theorem endEarly_eq (st0 st1 st2 : Byte) (s : State) :
    ∃ (chrn : List Byte) (n : Nat), endEarly st0 st1 st2 s = endJob st0 st1 st2 chrn { s with freeCount := n } ∧
      chrn.length = 4 ∧ (¬(s.ctrl.job.kind = .readId ∨ s.ctrl.job.kind = .format) → chrn = s.ctrl.job.chrn) := by
  obtain ⟨chrn, n, hframe, hlen⟩ := resultChrn_frame s
  refine ⟨chrn, n, by rw [endEarly, hframe], hlen, fun htarget => ?_⟩
  have hown : resultChrn s = (s.ctrl.job.chrn, s) := if_neg htarget
  exact congrArg Prod.fst (hframe.symm.trans hown)

/-- The head and unit bits of a status byte are those of the head/unit byte (46_command_engine R307). -/
theorem headUnit_of (hu : Byte) : headUnit (headOf hu) (unitOf hu) = hu &&& 7 := by
  revert hu
  decide

/-- A command that ends at its checks: RESULT with its status and its target, the engine and the media as they were. -/
theorem endEarly_atChecks {s x y : State} {j : Job} (hy : Begins s x y) (st0 st1 : Byte) (hbuf : 7 ≤ s.par.resBufLen)
    {t : State} (ht : t = (endEarly st0 st1 0 (jobBegins j y)).setOutcome .none) :
    t.ctrl.phase = .result ∧ t.ctrl.intrq = true ∧
      (∃ chrn : List Byte, t.ctrl.resBuf = (st0 ||| headUnit j.hd j.unit) :: st1 :: 0 :: chrn ∧ chrn.length = 4 ∧
        (¬(j.kind = .readId ∨ j.kind = .format) → chrn = j.chrn)) ∧
      (j.unit.toNat < s.drives.length → (t.drive j.unit.toNat).st0 = st0 ||| headUnit j.hd j.unit) ∧
      t.inbox = s.inbox ∧ (s.live.drive = none → t.live = s.live ∧ t.snap = s.snap) ∧ t.pll = s.pll ∧
      ∀ d : Nat, (t.drive d).med = (s.drive d).med := by
  obtain ⟨hpar, -, -, hinbox, -⟩ := jobBegins_rest hy j
  have hctrl := jobBegins_ctrl hy j
  have hjob : (jobBegins j y).ctrl.job = j := by rw [hctrl]
  obtain ⟨chrn, n, hend, hlen, htarget⟩ := endEarly_eq st0 st1 0 (jobBegins j y)
  obtain ⟨hphase, hintrq, hkept, -, hbytes⟩ := endJob_result (s := { jobBegins j y with freeCount := n }) st0 st1 0 hlen
    (by rwa [hpar])
  obtain ⟨-, hlive, hpll, hsnap⟩ := endJob_kept st0 st1 0 chrn { jobBegins j y with freeCount := n }
  have hslot := endJob_slot_st0 (s := { jobBegins j y with freeCount := n }) st0 st1 0 chrn
  have hmed := endJob_med st0 st1 0 chrn { jobBegins j y with freeCount := n }
  rw [← hend] at hphase hintrq hkept hbytes hlive hpll hsnap hslot hmed
  rw [hjob] at htarget
  rw [ht]
  refine ⟨hphase, hintrq, ⟨chrn, ?_, hlen, htarget⟩, fun hu => ?_, hkept.trans hinbox, fun hidle => ?_,
    hpll.trans (jobBegins_pll hy j), fun d => (hmed d).trans (jobBegins_med hy j d)⟩
  · rw [← hjob]
    exact hbytes
  · simp only [hjob] at hslot
    exact hslot ((jobBegins_length hy j).symm ▸ hu)
  · obtain ⟨hstart, hcheck⟩ := jobBegins_live hy j hidle
    exact ⟨hlive.trans hstart, hsnap.trans hcheck⟩

/-- Settles O44: the two checks end the command alike (`endEarly_atChecks`), whichever command it is
(`exec_loadCommand`). -/
theorem commandsEndBeforeStart : Obligations.CommandsEndBeforeStart := by
  unfold Obligations.CommandsEndBeforeStart
  intro s i hu u hcommand hreset hbuf hi hunit
  obtain ⟨y, hy⟩ := command_begins hcommand hreset rfl
  obtain ⟨j, main, cfgOf, hexec, hjunit, hhd, hwrites, htarget⟩ := exec_loadCommand hi
  obtain rfl : j.unit.toNat = u := by rw [hjunit, unitOf_toNat, hunit]
  have hstatus : headUnit j.hd j.unit = hu &&& 7 := by rw [hjunit, hhd, headUnit_of]
  refine ⟨_, (hexec s).trans (hy.accepts _), fun st0 st1 hends => ?_⟩
  have hchecks : ∃ st : Byte, st0 = st ||| headUnit j.hd j.unit ∧
      loadCommand j main cfgOf y = endEarly st st1 0 (jobBegins j y) := by
    rcases hends with ⟨hunready, rfl, rfl⟩ | ⟨hexists, hready, hpresent, hwriter, hwp, rfl, rfl⟩
    · refine ⟨0x48, by rw [hstatus], checkDrive_not_ready ?_⟩
      rw [mediumReady_begins hy]
      by_cases hexists : j.unit.toNat < s.par.ndrives
      · rcases hunready hexists with h | h <;> simp [h]
      · simp [hexists]
    · refine ⟨0x40, by rw [hstatus], checkDrive_protected ?_ ⟨hwrites.trans hwriter, ?_⟩⟩
      · rw [mediumReady_begins hy, hready, hpresent, decide_eq_true hexists]
        rfl
      · rwa [hy.drive]
  obtain ⟨st, rfl, hchecks⟩ := hchecks
  obtain ⟨hphase, hintrq, ⟨chrn, hbytes, hlen, hchrn⟩, hslot, hrest⟩ :=
    endEarly_atChecks hy st st1 hbuf (congrArg (State.setOutcome · .none) hchecks)
  refine ⟨hphase, hintrq, ?_, ?_, fun bytes hb => ?_, hslot, hrest⟩
  · rw [hbytes, List.length_cons, List.length_cons, List.length_cons, hlen]
  · rw [hbytes]
    rfl
  · obtain ⟨hkind, rfl⟩ := htarget bytes hb
    rw [hbytes]
    exact hchrn hkind

end Sys2Proof.Proofs
end

section
/-! The head and what it leads to (46_command_engine R296 to R301, R308; log 36): a command whose checks are passed has its
head loaded, and a data command or READ ID then searches for its sector. -/

namespace Sys2Proof.Proofs

open Sys2Proof.Machine Sys2Proof.Safety Sys2Proof.Laws

/-! Head loading. -/

/-- A head still loaded: the command goes on at once. -/
theorem beginHeadLoad_loaded {s : State} (m : MainState) (h : s.ctrl.headLoad = true) :
    beginHeadLoad m s = ((s.setSlot s.ctrl.job.unit.toNat m .unlisted).setCtrl
      { s.ctrl with job := { s.ctrl.job with step := .headLoad }, headAt := none }).issue [.client .headLoaded] :=
  if_pos h

/-- A head not loaded: the command waits for the head-load time. -/
theorem beginHeadLoad_loading {s : State} (m : MainState) (h : s.ctrl.headLoad = false) :
    beginHeadLoad m s = (s.setSlot s.ctrl.job.unit.toNat m .unlisted).setCtrl { s.ctrl with
      job := { s.ctrl.job with step := .headLoad }
      headLoad := true
      headAt := some (s.now + Config.headLoadTime (s.ctrl.spec2.extractLsb' 1 7)) } :=
  if_neg (ne_of_eq_of_ne h (by decide))

/-- Whether the head is loaded or not: the command waits for it, with its slot named. -/
theorem beginHeadLoad_result (m : MainState) (s : State) :
    (beginHeadLoad m s).drives = (s.setSlot s.ctrl.job.unit.toNat m .unlisted).drives ∧
      (beginHeadLoad m s).ctrl.phase = s.ctrl.phase ∧ (beginHeadLoad m s).ctrl.tc = s.ctrl.tc ∧
      (beginHeadLoad m s).ctrl.intrq = s.ctrl.intrq ∧ (beginHeadLoad m s).ctrl.headLoad = true ∧
      (beginHeadLoad m s).ctrl.job = { s.ctrl.job with step := .headLoad } := by
  by_cases hhead : s.ctrl.headLoad = true
  · rw [beginHeadLoad_loaded m hhead]
    exact ⟨rfl, rfl, rfl, rfl, hhead, rfl⟩
  · rw [beginHeadLoad_loading m (eq_false_of_ne_true hhead)]
    exact ⟨rfl, rfl, rfl, rfl, rfl, rfl⟩

/-- The head-load time is over: the command that waits for it goes on. -/
theorem headTick_loaded {s : State} (h : s.ctrl.job.step = .headLoad) :
    (headTick s).inbox = .client .headLoaded :: s.inbox := by
  have hwaits : headTick s = (s.setCtrl { s.ctrl with headAt := none }).issue [.client .headLoaded] := if_pos h
  rw [hwaits]
  rfl

/-- `t` is what a command with the job `j` and this `cfg` makes of the state `s`: its head is being loaded, with the slot of
its drive named `main`, and the engine, the FIFO and the media are as they were (46_command_engine R297, R308, log 36). -/
structure HeadLoading (s t : State) (j : Job) (main : MainState) (c : Cfg) : Prop where
  phase : t.ctrl.phase = .execution
  tc : t.ctrl.tc = false
  cfg : t.cfg = c
  job : t.ctrl.job = { j with step := .headLoad }
  par : t.par = s.par
  pll : t.pll = s.pll
  fifo : t.fifo = s.fifo
  live : s.live.drive = none → t.live = s.live ∧ t.snap = s.snap
  slots : t.drives.length = s.drives.length
  slot : t.drive j.unit.toNat =
    { slotTaken j.unit.toNat (s.drive j.unit.toNat) with mainState := main, subState := .unlisted }
  med (d : Nat) : (t.drive d).med = (s.drive d).med
  intrq : t.ctrl.intrq = (s.ctrl.intrq || (s.drive j.unit.toNat).seeking)
  head : t.ctrl.headLoad = true
  atOnce : s.ctrl.headLoad = true → t.inbox = .client .headLoaded :: s.inbox
  inTime : s.ctrl.headLoad = false → t.inbox = s.inbox ∧
    t.ctrl.headAt = some (s.now + Config.headLoadTime (s.ctrl.spec2.extractLsb' 1 7)) ∧
    ∀ n : Nat, (sound n .head t).inbox = .client .headLoaded :: s.inbox

/-- `z` is `s` with the command of job `j` in execution, a seek of its drive ended (46_command_engine R290, R306). -/
structure InJob (s z : State) (j : Job) : Prop where
  ctrl : z.ctrl = { s.ctrl with
    phase := .execution, cmdBuf := [], resBuf := [], tc := false
    intrq := s.ctrl.intrq || (s.drive j.unit.toNat).seeking, job := j }
  par : z.par = s.par
  now : z.now = s.now
  pll : z.pll = s.pll
  fifo : z.fifo = s.fifo
  inbox : z.inbox = s.inbox
  live : s.live.drive = none → z.live = s.live ∧ z.snap = s.snap
  slots : z.drives.length = s.drives.length
  slot : z.drive j.unit.toNat = slotTaken j.unit.toNat (s.drive j.unit.toNat)
  med (d : Nat) : (z.drive d).med = (s.drive d).med

theorem jobBegins_inJob {s x y : State} {j : Job} (hy : Begins s x y) (hu : j.unit.toNat < s.drives.length) :
    InJob s (jobBegins j y) j := by
  obtain ⟨hpar, hnow, hfifo, hinbox, -⟩ := jobBegins_rest hy j
  exact ⟨jobBegins_ctrl hy j, hpar, hnow, jobBegins_pll hy j, hfifo, hinbox, jobBegins_live hy j, jobBegins_length hy j,
    jobBegins_drive hy j hu, jobBegins_med hy j⟩

theorem writeCfg_inJob {s z : State} {j : Job} (h : InJob s z j) (c : Cfg) : InJob s (writeCfg c z) j := by
  have hdrive (d : Nat) : (writeCfg c z).drive d = z.drive d :=
    congrArg (fun drives => drives.getD d (Drive.reset Medium.none)) (writeCfg_drives c z)
  refine ⟨(writeCfg_ctrl c z).trans h.ctrl, (writeCfg_par c z).trans h.par, (writeCfg_now c z).trans h.now,
    (writeCfg_pll c z).trans h.pll, (writeCfg_fifo c z).trans h.fifo, (writeCfg_inbox c z).trans h.inbox, fun hidle => ?_,
    (congrArg List.length (writeCfg_drives c z)).trans h.slots, (hdrive _).trans h.slot,
    fun d => (congrArg Drive.med (hdrive d)).trans (h.med d)⟩
  obtain ⟨hlive, hsnap⟩ := h.live hidle
  rw [writeCfg_idle (by rw [hlive, hidle])]
  exact ⟨hlive, hsnap⟩

/-- The head of a command in execution is to be loaded. -/
theorem beginHeadLoad_headLoading {s z : State} {j : Job} (h : InJob s z j) (hu : j.unit.toNat < s.drives.length)
    (main : MainState) : HeadLoading s ((beginHeadLoad main z).setOutcome .none) j main z.cfg := by
  have hjob : z.ctrl.job = j := by rw [h.ctrl]
  obtain ⟨hdrives, hphase, htc, hintrq, hhead, hstep⟩ := beginHeadLoad_result main z
  obtain ⟨hpar, hlive, hpll, hsnap⟩ := beginHeadLoad_kept main z
  rw [hjob] at hdrives
  have hdrive (d : Nat) : (beginHeadLoad main z).drive d = (z.setSlot j.unit.toNat main .unlisted).drive d :=
    congrArg (fun drives => drives.getD d (Drive.reset Medium.none)) hdrives
  refine ⟨?_, ?_, beginHeadLoad_cfg z main, ?_, hpar.trans h.par, hpll.trans h.pll,
    (beginHeadLoad_fifo z main).trans h.fifo, fun hidle => ?_, ?_, ?_, fun d => (beginHeadLoad_med main z d).trans (h.med d), ?_, hhead, fun hloaded => ?_,
    fun hunloaded => ?_⟩
  · exact hphase.trans (by rw [h.ctrl])
  · exact htc.trans (by rw [h.ctrl])
  · exact hstep.trans (by rw [hjob])
  · obtain ⟨hzlive, hzsnap⟩ := h.live hidle
    exact ⟨hlive.trans hzlive, hsnap.trans hzsnap⟩
  · refine (congrArg List.length hdrives).trans (Eq.trans ?_ h.slots)
    simp [State.setSlot]
  · refine (hdrive _).trans ((drive_setDrive z _ _ (by rwa [h.slots])).trans ?_)
    rw [h.slot]
  · exact hintrq.trans (by rw [h.ctrl])
  · rw [beginHeadLoad_loaded main (by rw [h.ctrl, hloaded])]
    exact congrArg _ h.inbox
  · have hz : z.ctrl.headLoad = false := by rw [h.ctrl, hunloaded]
    have hinbox : (beginHeadLoad main z).inbox = s.inbox := by
      rw [beginHeadLoad_loading main hz]
      exact h.inbox
    refine ⟨hinbox, ?_, fun n => (headTick_loaded
      (s := reach n ((beginHeadLoad main z).setOutcome .none)) (congrArg Job.step hstep)).trans (congrArg _ hinbox)⟩
    rw [beginHeadLoad_loading main hz, setOutcome_ctrl, setCtrl_ctrl, h.now, h.ctrl]

/-- A command whose checks are passed has its head loaded. -/
theorem loadCommand_headLoading {s x y : State} {j : Job} {cfgOf : State → Cfg} {c : Cfg} (main : MainState)
    (hy : Begins s x y) (hexists : j.unit.toNat < s.par.ndrives) (hu : j.unit.toNat < s.drives.length)
    (hready : (s.drive j.unit.toNat).med.ready = true) (hpresent : (s.drive j.unit.toNat).med.present = true)
    (hwritable : j.kind.toMedium = true → (s.drive j.unit.toNat).med.wp = false)
    (hcfg : cfgOf (jobBegins j y) = c) :
    HeadLoading s ((loadCommand j main cfgOf y).setOutcome .none) j main c := by
  have hmedium : mediumReady y j.unit = true := by
    rw [mediumReady_begins hy, hready, hpresent, decide_eq_true hexists]
    rfl
  have hunprotected : ¬(j.kind.toMedium = true ∧ (y.drive j.unit.toNat).med.wp = true) := by
    rintro ⟨hkind, hwp⟩
    rw [hy.drive, hwritable hkind] at hwp
    cases hwp
  have hpasses : loadCommand j main cfgOf y = beginHeadLoad main (writeCfg (cfgOf (jobBegins j y)) (jobBegins j y)) :=
    checkDrive_ready hmedium hunprotected
  rw [hpasses, hcfg]
  have hload := beginHeadLoad_headLoading (writeCfg_inJob (jobBegins_inJob hy hu) c) hu main
  rwa [writeCfg_cfg] at hload

/-- A command's slot keeps the status that a seek ended by it left, or what it had. -/
theorem HeadLoading.pending {s t : State} {j : Job} {main : MainState} {c : Cfg} (h : HeadLoading s t j main c) :
    ((s.drive j.unit.toNat).seeking = true →
      (t.drive j.unit.toNat).pending = some (0x60 ||| BitVec.ofNat 8 j.unit.toNat) ∧
        (t.drive j.unit.toNat).stepAt = none ∧ t.ctrl.intrq = true) ∧
    ((s.drive j.unit.toNat).seeking = false →
      (t.drive j.unit.toNat).pending = (s.drive j.unit.toNat).pending ∧ t.ctrl.intrq = s.ctrl.intrq) := by
  refine ⟨fun hseeking => ?_, fun hidle => ?_⟩
  · rw [h.slot, slotTaken, if_pos hseeking, h.intrq, hseeking, Bool.or_true]
    exact ⟨congrArg (fun b => some (0x60 ||| b)) (headUnit_unit j.unit.isLt), rfl, rfl⟩
  · rw [h.slot, slotTaken, hidle, h.intrq, hidle, Bool.or_false]
    exact ⟨rfl, rfl⟩

/-! HEAD_LOAD_DONE. -/

/-- The head is loaded: the slot says so, and the command goes on. -/
theorem headLoaded_eq (s : State) :
    headLoaded s =
      if startsNothing s then
        (s.setSlot s.ctrl.job.unit.toNat (s.drive s.ctrl.job.unit.toNat).mainState .headLoadDone).issue
          [.client .undescribedDone]
      else if s.ctrl.job.kind = .format then
        (s.setSlot s.ctrl.job.unit.toNat (s.drive s.ctrl.job.unit.toNat).mainState .headLoadDone).setJob
          { s.ctrl.job with step := .formatWait }
      else
        (s.setSlot s.ctrl.job.unit.toNat (s.drive s.ctrl.job.unit.toNat).mainState .headLoadDone).issue
          [.client .beginSearch] := rfl

/-- The slot of a drive says what was put into it. -/
theorem drive_setSlot {s : State} {u : Nat} (hu : u < s.drives.length) (m : MainState) (sub : SubState) :
    (s.setSlot u m sub).drive u = { s.drive u with mainState := m, subState := sub } :=
  drive_setDrive s u _ hu

/-! The search for a sector (46_command_engine R296). -/

/-- A header search: LIVE_START and LIVE_RUN stand first in the inbox, and the slot and the job say so. -/
theorem searchHeader_result (s : State) (hu : s.ctrl.job.unit.toNat < s.drives.length) :
    (searchHeader s).inbox = .request (encode (.liveStart s.ctrl.job.unit.toNat .searchAddressMarkHeader)) ::
        (runInputs ++ s.inbox) ∧
      (searchHeader s).ctrl = { s.ctrl with job := { s.ctrl.job with step := .scanId } } ∧
      (searchHeader s).drive s.ctrl.job.unit.toNat = { s.drive s.ctrl.job.unit.toNat with subState := .scanId } :=
  ⟨rfl, rfl, drive_setSlot hu _ _⟩

theorem setSearchRetries_drive (n : Nat) {s : State} (hu : s.ctrl.job.unit.toNat < s.drives.length) :
    (setSearchRetries n s).drive s.ctrl.job.unit.toNat = { s.drive s.ctrl.job.unit.toNat with searchRetries := n } :=
  drive_setDrive s _ _ hu

theorem beginSearch_cfg (s : State) : (beginSearch s).cfg = s.cfg := by
  simp only [beginSearch, searchHeader_cfg, setSearchRetries_cfg, setJob_cfg]

/-- The search begins with the index pulses and the retries counted from 0. -/
theorem beginSearch_result (s : State) (hu : s.ctrl.job.unit.toNat < s.drives.length) :
    (beginSearch s).inbox = .request (encode (.liveStart s.ctrl.job.unit.toNat .searchAddressMarkHeader)) ::
        (runInputs ++ s.inbox) ∧
      (beginSearch s).ctrl = { s.ctrl with job := { s.ctrl.job with step := .scanId, idx := 0 } } ∧
      (beginSearch s).drive s.ctrl.job.unit.toNat =
        { s.drive s.ctrl.job.unit.toNat with subState := .scanId, searchRetries := 0 } := by
  obtain ⟨hinbox, hctrl, hslot⟩ := searchHeader_result (setSearchRetries 0 (s.setJob { s.ctrl.job with idx := 0 }))
    (by simpa [setSearchRetries, State.setJob] using hu)
  refine ⟨hinbox, hctrl, hslot.trans ?_⟩
  exact congrArg (fun d : Drive => { d with subState := .scanId })
    (setSearchRetries_drive 0 (s := s.setJob { s.ctrl.job with idx := 0 }) hu)

/-! The data commands and READ ID. -/

/-- Five commands that search for a sector: the job and `cfg` they begin with. -/
structure SearchesWith (i : Instr) (a : DataArgs) (j : Job) (main : MainState) (cfgOf : State → Cfg) : Prop where
  exec (s : State) : exec i s = accepted s (loadCommand j main cfgOf)
  unit : j.unit = unitOf a.hu
  hd : j.hd = headOf a.hu
  counted : j.idx = 0 ∧ j.st1 = 0 ∧ j.st2 = 0
  searches : j.kind ≠ .undescribed ∧ j.kind ≠ .format
  target : j.kind ≠ .readId →
    j.c = a.c ∧ j.h = a.h ∧ j.r = a.r ∧ j.n = a.n ∧ j.eot = a.eot ∧ j.mt = a.flags.getLsbD 2

theorem dataCommand_searches {i : Instr} {a : DataArgs} {kind : JobKind} {main : MainState} {deleted : Bool}
    (hexec : ∀ s, exec i s = accepted s (beginData kind main deleted a)) (hkind : kind ≠ .undescribed ∧ kind ≠ .format) :
    SearchesWith i a (dataJob kind a) main (dataCfg deleted a) :=
  ⟨hexec, rfl, rfl, ⟨rfl, rfl, rfl⟩, hkind, fun _ => ⟨rfl, rfl, rfl, rfl, rfl, rfl⟩⟩

theorem readId_searches (a : DataArgs) :
    SearchesWith (.readId a.flags a.hu) a (unitJob .readId a.hu) .readId (modeCfg (flagMode a.flags)) :=
  ⟨fun _ => rfl, rfl, rfl, ⟨rfl, rfl, rfl⟩, ⟨nofun, nofun⟩, fun h => absurd rfl h⟩

/-- The configuration a command starts from: the mode and the cell length are its own (46_command_engine R297). -/
theorem modeCfg_jobBegins {s x y : State} (hy : Begins s x y) (j : Job) (m : Mode) :
    modeCfg m (jobBegins j y) = { s.cfg with
      mode := m, cellNominal := cellNominalOf s.par s.ctrl.rate m, tcDone := false } := by
  obtain ⟨hpar, -, -, -, hcfg⟩ := jobBegins_rest hy j
  rw [modeCfg, hpar, hcfg, jobBegins_ctrl hy j]

/-- A `cfg` that differs from another at most in what a data command sets. -/
theorem cfg_eq_of_kept {c k : Cfg} (htc : c.tcDone = false) (hsectors : c.fmtSectors = k.fmtSectors)
    (hfill : c.fmtFill = k.fmtFill) (hgap : c.fmtGap3 = k.fmtGap3) :
    { k with
      mode := c.mode, cellNominal := c.cellNominal, tcDone := false
      sectorSize := c.sectorSize, damDeleted := c.damDeleted } = c := by
  rw [← htc, ← hsectors, ← hfill, ← hgap]

/-- The checks are passed and the head is loaded: the search begins (46_command_engine R296, R308). -/
theorem headLoaded_searches {s : State} (h : s.ctrl.job.kind ≠ .undescribed ∧ s.ctrl.job.kind ≠ .format) :
    headLoaded s =
      (s.setSlot s.ctrl.job.unit.toNat (s.drive s.ctrl.job.unit.toNat).mainState .headLoadDone).issue
        [.client .beginSearch] := by
  obtain ⟨hundescribed, hformat⟩ := h
  have hstarts : startsNothing s = false := by simp [startsNothing, State.job, hundescribed, hformat]
  rw [headLoaded_eq, hstarts, if_neg (by decide), if_neg hformat]

/-- Settles O43: the five commands differ in their job and `cfg` alone (`SearchesWith`); their head is loaded
(`loadCommand_headLoading`), and the loaded head leads to the search (`headLoaded_searches`, `beginSearch_result`). -/
theorem dataCommandsStart : Obligations.DataCommandsStart := by
  unfold Obligations.DataCommandsStart
  intro s a i main kind writes u c hcommand hreset hunit hexists hslot hready hpresent hwritable hmode hcell htc hsectors
    hfill hgap hi
  obtain ⟨y, hy⟩ := command_begins hcommand hreset rfl
  have hc := cfg_eq_of_kept htc hsectors hfill hgap
  rw [hcell, hmode] at hc
  have hsearches : ∃ (j : Job) (cfgOf : State → Cfg), SearchesWith i a j main cfgOf ∧ j.kind = kind ∧
      kind.toMedium = writes ∧ cfgOf (jobBegins j y) = c := by
    rcases hi with ⟨rfl, rfl, rfl, rfl, hsize, hdeleted⟩ | ⟨hsize, hi⟩
    · refine ⟨_, _, readId_searches a, rfl, rfl, ?_⟩
      rw [modeCfg_jobBegins hy, ← hc, hsize, hdeleted]
      rfl
    · rcases hi with ⟨rfl, rfl, rfl, rfl, hdeleted⟩ | ⟨rfl, rfl, rfl, rfl, hdeleted⟩ | ⟨rfl, rfl, rfl, rfl, hdeleted⟩ |
        ⟨rfl, rfl, rfl, rfl, hdeleted⟩
      all_goals
        refine ⟨_, _, dataCommand_searches (fun _ => rfl) (by decide), rfl, rfl, ?_⟩
        rw [dataCfg, modeCfg_jobBegins hy, ← hc, hsize, hdeleted]
        rfl
  obtain ⟨j, cfgOf, hj, rfl, rfl, hcfg⟩ := hsearches
  obtain rfl : j.unit.toNat = u := by rw [hj.unit, unitOf_toNat, hunit]
  have ht := loadCommand_headLoading main hy hexists hslot hready hpresent hwritable hcfg
  have hexec : exec i s = .next ((loadCommand j main cfgOf y).setOutcome .none) := (hj.exec s).trans (hy.accepts _)
  generalize (loadCommand j main cfgOf y).setOutcome .none = t at ht hexec
  obtain ⟨hidx, hst1, hst2⟩ := hj.counted
  obtain ⟨hcut, huncut⟩ := ht.pending
  have htslot : j.unit.toNat < t.drives.length := by rwa [ht.slots]
  have hh : clientStep .headLoaded t =
      (t.setSlot j.unit.toNat (t.drive j.unit.toNat).mainState .headLoadDone).issue [.client .beginSearch] := by
    have hsearch : headLoaded t = _ := headLoaded_searches (by rw [ht.job]; exact hj.searches)
    rw [ht.job] at hsearch
    exact hsearch
  have hqslot : j.unit.toNat < (t.setSlot j.unit.toNat (t.drive j.unit.toNat).mainState .headLoadDone).drives.length := by
    simpa [State.setSlot] using htslot
  have hb := beginSearch_result (t.setSlot j.unit.toNat (t.drive j.unit.toNat).mainState .headLoadDone)
  rw [setSlot_ctrl, setSlot_inbox, ht.job] at hb
  obtain ⟨hbinbox, hbctrl, hbslot⟩ := hb hqslot
  refine ⟨t, _, _, { j with step := .headLoad }, hexec, ht.phase, ht.tc, ht.cfg, ht.job.symm, rfl, rfl, rfl, hj.hd, hidx,
    hst1, hst2, hj.target, ht.live, ht.pll, ht.fifo, ?_, ht.med, fun hseeks => hcut ?_,
    fun hseek hrecalibrate => huncut ?_, ht.atOnce, fun hunloaded => ?_, rfl, ?_, ?_, rfl, ?_⟩
  · rw [ht.slot]
  · rcases hseeks with h | h <;> simp [Drive.seeking, h]
  · simp [Drive.seeking, hseek, hrecalibrate]
  · obtain ⟨hinbox, htime, hticks⟩ := ht.inTime hunloaded
    exact ⟨hinbox, ht.head, htime, hticks⟩
  · rw [hh]
    rfl
  · rw [hh]
    exact congrArg Drive.subState (drive_setSlot htslot _ _)
  · have hbegins : clientStep .beginSearch { clientStep .headLoaded t with inbox := t.inbox } =
        beginSearch (t.setSlot j.unit.toNat (t.drive j.unit.toNat).mainState .headLoadDone) := by
      rw [hh]
      rfl
    obtain ⟨-, hlive, -, -⟩ := beginSearch_kept (t.setSlot j.unit.toNat (t.drive j.unit.toNat).mainState .headLoadDone)
    rw [hbegins, hbslot, hbctrl, beginSearch_cfg, setSlot_cfg]
    exact ⟨hlive, ht.cfg, rfl, rfl, rfl, hbinbox⟩

end Sys2Proof.Proofs
end

section
/-! FORMAT TRACK, and the commands that end without the engine (46_command_engine R297, R301, R308; log 19, log 42): a
format waits for the index pulse, one of no sectors ends with READ TRACK and the SCANs through TRACK_DONE. -/

namespace Sys2Proof.Proofs

open Sys2Proof.Machine Sys2Proof.Safety Sys2Proof.Laws

/-! HEAD_LOAD_DONE of a format, and of a command that starts nothing. -/

/-- A format waits for the index pulse. -/
theorem headLoaded_waits {s : State} (hformat : s.ctrl.job.kind = .format) (hsectors : s.cfg.fmtSectors ≠ 0) :
    headLoaded s = (s.setSlot s.ctrl.job.unit.toNat (s.drive s.ctrl.job.unit.toNat).mainState .headLoadDone).setJob
      { s.ctrl.job with step := .formatWait } := by
  have hstarts : startsNothing s = false := by
    rw [startsNothing, State.job, hformat, beq_false_of_ne hsectors]
    rfl
  rw [headLoaded_eq, hstarts, if_neg (by decide), if_pos hformat]

/-- A command that does not start the engine ends. -/
theorem headLoaded_ends {s : State}
    (h : s.ctrl.job.kind = .undescribed ∨ s.ctrl.job.kind = .format ∧ s.cfg.fmtSectors = 0) :
    headLoaded s = (s.setSlot s.ctrl.job.unit.toNat (s.drive s.ctrl.job.unit.toNat).mainState .headLoadDone).issue
      [.client .undescribedDone] := by
  have hstarts : startsNothing s = true := by
    rcases h with hkind | ⟨hkind, hsectors⟩
    · simp [startsNothing, State.job, hkind]
    · simp [startsNothing, State.job, hkind, hsectors]
  rw [headLoaded_eq, hstarts, if_pos rfl]

/-- The index pulse a format waits for starts it (46_command_engine R301). -/
theorem afterIndex_formatWait {s : State} (h : s.ctrl.job.step = .formatWait) :
    (afterIndex s).inbox =
      .request (encode (.liveStart s.ctrl.job.unit.toNat .writeTrackPreSectors)) :: (runInputs ++ s.inbox) := by
  simp only [afterIndex, State.job, h]
  rfl

/-! TRACK_DONE (46_command_engine R308). -/

/-- The slot at the end of a transfer. -/
theorem endTransfer_slot {s : State} (st0 st1 st2 : Byte) (chrn : List Byte)
    (hu : s.ctrl.job.unit.toNat < s.drives.length) :
    ((endTransfer st0 st1 st2 chrn s).drive s.ctrl.job.unit.toNat).subState = .trackDone := by
  have hslot : s.ctrl.job.unit.toNat < (setResult st0 st1 st2 chrn s).drives.length := by
    simpa [setResult] using hu
  have hdone := congrArg Drive.subState (drive_setSlot hslot
    ((setResult st0 st1 st2 chrn s).drive s.ctrl.job.unit.toNat).mainState .trackDone)
  unfold endTransfer
  dsimp only
  split
  · exact hdone
  · exact hdone

/-- A command whose status the spec does not give ends with the bits that the layout leaves 0 (log 19, log 42). -/
theorem endUndescribed_eq (s : State) :
    ∃ (b0 b1 b2 : Byte) (chrn : List Byte) (n : Nat),
      endUndescribed s = endTransfer (b0 &&& 0xF8) (b1 &&& 0xB7) (b2 &&& 0x7F) chrn { s with freeCount := n } ∧
        chrn.length = 4 := by
  refine ⟨(takeFrees 7 s).1.getD 0 0, (takeFrees 7 s).1.getD 1 0, (takeFrees 7 s).1.getD 2 0, (takeFrees 7 s).1.drop 3,
    s.freeCount + 7, ?_, ?_⟩
  · rw [← takeFrees_state]
    rfl
  · rw [List.length_drop, takeFrees_length]

/-- The masks of the free status bytes keep the unit and head of ST0, and the bits that are 0 (46_command_engine R307). -/
theorem freeStatus_masks (b hu : Byte) :
    (b &&& 0xF8 ||| hu &&& 7) &&& 7 = hu &&& 7 ∧ (b &&& 0xB7) &&& 0x48 = 0 ∧ (b &&& 0x7F) &&& 0x80 = 0 := by
  refine ⟨?_, ?_, ?_⟩
  · ext i hi
    interval_cases i <;> simp
  · rw [BitVec.and_assoc]
    exact BitVec.and_zero
  · rw [BitVec.and_assoc]
    exact BitVec.and_zero

/-- What FORMAT TRACK sets `cfg` to, from the state its checks leave (46_command_engine R297). -/
theorem formatCfg_jobBegins {s x y : State} (hy : Begins s x y) (j : Job) (flags : BitVec 3) (n sc gpl d : Byte) :
    formatCfg flags n sc gpl d (jobBegins j y) = { s.cfg with
      mode := flagMode flags, cellNominal := cellNominalOf s.par s.ctrl.rate (flagMode flags)
      sectorSize := sectorSizeOf n, damDeleted := false, tcDone := false, fmtSectors := sc, fmtFill := d, fmtGap3 := gpl } := by
  rw [formatCfg, modeCfg_jobBegins hy]

/-- READ TRACK and the SCANs (log 19): the nine-byte commands whose use of the engine is not described. -/
theorem exec_undescribed {i : Instr} {a : DataArgs} (hi : undescribedArgs i = some a) :
    ∃ main : MainState, ∀ s, exec i s = accepted s (loadCommand (dataJob .undescribed a) main (dataCfg false a)) := by
  cases i with
  | readTrack _ =>
    cases hi
    exact ⟨.readTrack, fun _ => rfl⟩
  | scanEqual _ | scanLowOrEqual _ | scanHighOrEqual _ =>
    cases hi
    exact ⟨.scanData, fun _ => rfl⟩
  | _ => cases hi

/-- A command that ends with the head loaded and the engine not started: TRACK_DONE, then RESULT with seven bytes, of which
the unit and head and the bits that are 0 are given (log 19, log 42). -/
theorem endUndescribed_result {q r f : State} {hu : Byte} (hslot : q.ctrl.job.unit.toNat < q.drives.length)
    (hbuf : 7 ≤ q.par.resBufLen) (hkind : q.ctrl.job.kind.toHost = false)
    (hhead : headUnit q.ctrl.job.hd q.ctrl.job.unit = hu &&& 7) (hr : r = endUndescribed q)
    (hf : f = enterResult { r with inbox := q.inbox }) :
    r.inbox = .client .trackDone :: q.inbox ∧ (r.drive q.ctrl.job.unit.toNat).subState = .trackDone ∧
      f.ctrl.phase = .result ∧ f.ctrl.intrq = true ∧ f.ctrl.resBuf.length = 7 ∧
      f.ctrl.resBuf.getD 0 0 &&& 7 = hu &&& 7 ∧ f.ctrl.resBuf.getD 1 0 &&& 0x48 = 0 ∧
      f.ctrl.resBuf.getD 2 0 &&& 0x80 = 0 ∧ f.live = q.live := by
  obtain ⟨b0, b1, b2, chrn, n, hend, hlen⟩ := endUndescribed_eq q
  obtain ⟨hbytes, hinbox⟩ := endTransfer_passes (s := { q with freeCount := n }) (b0 &&& 0xF8) (b1 &&& 0xB7) (b2 &&& 0x7F)
    chrn (.inl hkind)
  rw [setResult_resBuf (s := { q with freeCount := n }) _ _ _ hlen hbuf] at hbytes
  have hdone := endTransfer_slot (s := { q with freeCount := n }) (b0 &&& 0xF8) (b1 &&& 0xB7) (b2 &&& 0x7F) chrn hslot
  have hlive := endTransfer_live { q with freeCount := n } (b0 &&& 0xF8) (b1 &&& 0xB7) (b2 &&& 0x7F) chrn
  rw [← hend, ← hr] at hbytes hinbox hdone hlive
  obtain ⟨-, hphase, hintrq⟩ := enterResult_result { r with inbox := q.inbox }
  obtain ⟨hkept, -, -⟩ := enterResult_kept_bytes { r with inbox := q.inbox }
  have hfbytes : f.ctrl.resBuf = (b0 &&& 0xF8 ||| hu &&& 7) :: (b1 &&& 0xB7) :: (b2 &&& 0x7F) :: chrn := by
    rw [hf, hkept, ← hhead]
    exact hbytes
  obtain ⟨hunit, -, -⟩ := freeStatus_masks b0 hu
  obtain ⟨-, hzero1, -⟩ := freeStatus_masks b1 hu
  obtain ⟨-, -, hzero2⟩ := freeStatus_masks b2 hu
  refine ⟨hinbox, hdone, by rw [hf, hphase], by rw [hf, hintrq], ?_, ?_, ?_, ?_, ?_⟩
  · rw [hfbytes, List.length_cons, List.length_cons, List.length_cons, hlen]
  · rw [hfbytes]
    exact hunit
  · rw [hfbytes]
    exact hzero1
  · rw [hfbytes]
    exact hzero2
  · rw [hf, enterResult_live]
    exact hlive

/-- Settles O45: the head is loaded (`loadCommand_headLoading`); then a format waits for its index pulse
(`headLoaded_waits`, `afterIndex_formatWait`), and what starts nothing ends (`headLoaded_ends`,
`endUndescribed_result`). -/
theorem formatAndUndescribedStart : Obligations.FormatAndUndescribedStart := by
  unfold Obligations.FormatAndUndescribedStart
  intro s u flags hu n c hcommand hreset hunit hexists hslot hbuf hready hpresent hc
  obtain ⟨y, hy⟩ := command_begins hcommand hreset rfl
  obtain rfl : (unitOf hu).toNat = u := by rw [unitOf_toNat, hunit]
  refine ⟨fun sc gpl d hwp hsc => ?_, fun i k hi => ?_⟩
  · have ht := loadCommand_headLoading .formatTrack (j := unitJob .format hu) hy hexists hslot hready hpresent
      (fun _ => hwp) (formatCfg_jobBegins hy _ flags n sc gpl d)
    have hexec : exec (.formatTrack flags hu n sc gpl d) s = _ :=
      hy.accepts (loadCommand (unitJob .format hu) .formatTrack (formatCfg flags n sc gpl d))
    generalize (loadCommand (unitJob .format hu) .formatTrack (formatCfg flags n sc gpl d) y).setOutcome .none = t
      at ht hexec
    have htslot : (unitOf hu).toNat < t.drives.length := by rwa [ht.slots]
    have hh : clientStep .headLoaded t = _ := headLoaded_waits (by rw [ht.job]; rfl) (by rw [ht.cfg]; exact hsc)
    rw [ht.job] at hh
    refine ⟨t, _, hexec, ht.phase, ?_, by rw [ht.job]; rfl, by rw [ht.job]; rfl, by rw [ht.job]; rfl,
      fun hidle => (ht.live hidle).1, ht.fifo, ht.head, ht.atOnce, ht.inTime, rfl, ?_, ?_, ?_⟩
    · rw [ht.cfg, hc]
      rfl
    · rw [hh, setJob_inbox, setSlot_inbox]
    · rw [hh]
      exact congrArg Drive.subState (drive_setSlot htslot _ _)
    · rw [hh]
      exact afterIndex_formatWait rfl
  · have hends : ∃ (j : Job) (main : MainState) (cfgOf : State → Cfg),
        (∀ s, exec i s = accepted s (loadCommand j main cfgOf)) ∧ j.unit = unitOf hu ∧ j.hd = headOf hu ∧
        j.kind.toHost = false ∧ (j.kind = .undescribed ∨ j.kind = .format ∧ k.fmtSectors = 0) ∧
        (j.kind.toMedium = true → (s.drive (unitOf hu).toNat).med.wp = false) ∧ cfgOf (jobBegins j y) = k := by
      rcases hi with ⟨gpl, d, hwp, rfl, rfl⟩ | ⟨a, hargs, rfl, rfl, rfl, rfl⟩
      · refine ⟨unitJob .format hu, .formatTrack, formatCfg flags n 0 gpl d, fun _ => rfl, rfl, rfl, rfl, .inr ⟨rfl, rfl⟩,
          fun _ => hwp, ?_⟩
        rw [formatCfg_jobBegins hy, hc]
        rfl
      · obtain ⟨main, hexec⟩ := exec_undescribed hargs
        refine ⟨dataJob .undescribed a, main, dataCfg false a, hexec, rfl, rfl, rfl, .inl rfl, nofun, ?_⟩
        rw [dataCfg, modeCfg_jobBegins hy, hc]
        rfl
    obtain ⟨j, main, cfgOf, hexec, hjunit, hhd, hhost, hstarts, hwritable, hcfg⟩ := hends
    rw [← hjunit] at hexists hslot hready hpresent hwritable ⊢
    have ht := loadCommand_headLoading main hy hexists hslot hready hpresent hwritable hcfg
    have hexec' := (hexec s).trans (hy.accepts _)
    generalize (loadCommand j main cfgOf y).setOutcome .none = t at ht hexec'
    have hh : clientStep .headLoaded t = _ := headLoaded_ends (by rw [ht.job, ht.cfg]; exact hstarts)
    rw [ht.job] at hh
    have hq : { clientStep .headLoaded t with inbox := t.inbox } =
        t.setSlot j.unit.toNat (t.drive j.unit.toNat).mainState .headLoadDone := by
      rw [hh]
      rfl
    have hqslot : j.unit.toNat <
        (t.setSlot j.unit.toNat (t.drive j.unit.toNat).mainState .headLoadDone).drives.length := by
      simpa [State.setSlot, ht.slots] using hslot
    have hqhead : headUnit j.hd j.unit = hu &&& 7 := by rw [hjunit, hhd, headUnit_of]
    have hresult := endUndescribed_result
      (q := t.setSlot j.unit.toNat (t.drive j.unit.toNat).mainState .headLoadDone)
      (r := clientStep .undescribedDone { clientStep .headLoaded t with inbox := t.inbox })
      (f := clientStep .trackDone
        { clientStep .undescribedDone { clientStep .headLoaded t with inbox := t.inbox } with inbox := t.inbox })
      (hu := hu)
    rw [setSlot_ctrl, setSlot_par, setSlot_inbox, setSlot_live, ht.job, ht.par] at hresult
    obtain ⟨hrinbox, hrslot, hrest⟩ := hresult hqslot hbuf hhost hqhead (by rw [hq]; rfl) rfl
    refine ⟨t, _, _, _, hexec', ht.phase, ht.cfg, fun hidle => (ht.live hidle).1, ht.fifo, ht.head, ht.atOnce, ht.inTime,
      rfl, ?_, rfl, hrinbox, hrslot, rfl, hrest⟩
    rw [hh]
    rfl

end Sys2Proof.Proofs
end

section
/-! Finished runs (46_command_engine R296 to R303, R306, 60_exceptions R351, R360): what a captured ID leads to, how a data
run that is no good sector is reported, and what follows a good one. -/

namespace Sys2Proof.Proofs

open Sys2Proof.Machine Sys2Proof.Safety Sys2Proof.Laws

/-- The ST0 of a normal end has the head and unit alone. -/
theorem zero_status (b : Byte) : (0 : Byte) ||| b = b := BitVec.zero_or

/-! The look at a finished run. -/

theorem evaluate_scanId {s : State} (h : s.ctrl.job.step = .scanId) : evaluate s = evaluateId s := by
  simp only [evaluate, State.job, h]

theorem evaluate_dataField {s : State} (h : s.ctrl.job.step = .dataField) : evaluate s = evaluateData s := by
  simp only [evaluate, State.job, h]

/-! The captured ID (46_command_engine R296). -/

theorem idMatches_iff (j : Job) (l : Live) :
    idMatches j l = true ↔ l.crc = 0 ∧ l.idbuf.b0 = j.c ∧ l.idbuf.b1 = j.h ∧ l.idbuf.b2 = j.r ∧ l.idbuf.b3 = j.n := by
  simp [idMatches, and_assoc]

/-- The ID of another sector changes the status bits alone. -/
theorem idStatus_eq (l : Live) (j : Job) : idStatus l j = { j with
    st1 := if l.crc = 0 then j.st1 else j.st1 ||| 0x20
    st2 := if l.crc = 0 ∧ l.idbuf.b0 ≠ j.c ∧ l.idbuf.b1 = j.h ∧ l.idbuf.b2 = j.r ∧ l.idbuf.b3 = j.n then
      j.st2 ||| (if l.idbuf.b0 = 0xFF then 0x12 else 0x10) else j.st2 } := by
  unfold idStatus
  by_cases hcrc : l.crc = 0
  · rw [if_neg (not_not.2 hcrc), if_pos hcrc]
    simp only [hcrc, true_and]
    split
    · rw [BitVec.or_assoc]
      split <;> rfl
    · rfl
  · rw [if_pos hcrc, if_neg hcrc, if_neg (fun h => hcrc h.1)]
    rfl

theorem retrySearch_result (s : State) (hu : s.ctrl.job.unit.toNat < s.drives.length) :
    (retrySearch s).inbox = .request (encode (.liveStart s.ctrl.job.unit.toNat .searchAddressMarkHeader)) ::
        (runInputs ++ s.inbox) ∧
      (retrySearch s).ctrl = { s.ctrl with job := { s.ctrl.job with step := .scanId } } ∧
      ((retrySearch s).drive s.ctrl.job.unit.toNat).searchRetries =
        (s.drive s.ctrl.job.unit.toNat).searchRetries + 1 := by
  obtain ⟨hinbox, hctrl, hslot⟩ := searchHeader_result
    (setSearchRetries ((s.drive s.ctrl.job.unit.toNat).searchRetries + 1) s) (by simpa [setSearchRetries] using hu)
  exact ⟨hinbox, hctrl, (congrArg Drive.searchRetries hslot).trans
    (congrArg Drive.searchRetries (setSearchRetries_drive _ hu))⟩

/-- Settles O46: READ ID ends (`endJob_result`), a hit goes on to the data field, any other ID back to the search
(`retrySearch_result`) with its status bits (`idStatus_eq`). -/
theorem capturedIdIsEvaluated : Obligations.CapturedIdIsEvaluated := by
  unfold Obligations.CapturedIdIsEvaluated
  rintro s t _ _ _ rfl rfl rfl hstep hidle rfl hbuf hslot
  have hevaluates : clientStep .afterRun s = evaluateId s := (if_pos hidle).trans (evaluate_scanId hstep)
  rw [hevaluates]
  refine ⟨fun hkind => ?_, ?_⟩
  · have hends : evaluateId s = endJob 0 (if s.live.crc ≠ 0 then st1DataError else 0) 0
        [s.live.idbuf.b0, s.live.idbuf.b1, s.live.idbuf.b2, s.live.idbuf.b3] s := if_pos hkind
    obtain ⟨hphase, hintrq, hinbox, -, hbytes⟩ := endJob_result (s := s) 0 (if s.live.crc ≠ 0 then st1DataError else 0) 0
      (chrn := [s.live.idbuf.b0, s.live.idbuf.b1, s.live.idbuf.b2, s.live.idbuf.b3]) rfl hbuf
    rw [hends]
    refine ⟨hphase, hintrq, hinbox, ?_⟩
    rw [hbytes, zero_status, ite_not]
    rfl
  · rintro hkind _ rfl
    refine ⟨fun hhit => ?_, fun hmiss => ?_⟩
    · have hfield : evaluateId s = beginField s :=
        (if_neg hkind).trans (if_pos ((idMatches_iff s.ctrl.job s.live).2 hhit))
      rw [hfield]
      exact ⟨rfl, rfl, rfl, congrArg Drive.subState (drive_setSlot hslot _ _), rfl⟩
    · have hretry : evaluateId s = retrySearch (s.setJob (idStatus s.live s.ctrl.job)) :=
        (if_neg hkind).trans (if_neg (mt (idMatches_iff s.ctrl.job s.live).1 hmiss))
      have hresult := retrySearch_result (s.setJob (idStatus s.live s.ctrl.job))
      rw [idStatus_eq] at hretry hresult
      obtain ⟨hinbox, hctrl, hretries⟩ := hresult hslot
      rw [hretry, hctrl]
      exact ⟨hinbox, rfl, rfl, hretries, rfl, rfl⟩

/-! The end of a transfer (46_command_engine R308, log 21). -/

theorem endTransfer_bytes {s : State} (st0 st1 st2 : Byte) {chrn : List Byte} (hlen : chrn.length = 4)
    (hbuf : 7 ≤ s.par.resBufLen) :
    (endTransfer st0 st1 st2 chrn s).ctrl.resBuf =
      (st0 ||| headUnit s.ctrl.job.hd s.ctrl.job.unit) :: st1 :: st2 :: chrn := by
  refine Eq.trans ?_ (setResult_resBuf st0 st1 st2 hlen hbuf)
  unfold endTransfer
  dsimp only
  split <;> rfl

/-- The host has first to take what a read without terminal count has left in the FIFO. -/
theorem endTransfer_inbox (s : State) (st0 st1 st2 : Byte) (chrn : List Byte) :
    (endTransfer st0 st1 st2 chrn s).inbox =
      (if s.ctrl.tc = true ∨ s.ctrl.job.kind.toHost = false ∨ s.fifo = [] then [.client .trackDone] else []) ++
        s.inbox := by
  by_cases hpasses : s.ctrl.tc = true ∨ s.ctrl.job.kind.toHost = false ∨ s.fifo = []
  · rw [if_pos hpasses]
    have htest : ¬(s.ctrl.job.kind.toHost && !s.ctrl.tc && !s.fifo.isEmpty) = true := by
      rcases hpasses with h | h | h <;> simp [h]
    have hends : endTransfer st0 st1 st2 chrn s = _ := if_neg htest
    rw [hends]
    rfl
  · rw [if_neg hpasses]
    obtain ⟨htc, hhost, hfifo⟩ : s.ctrl.tc = false ∧ s.ctrl.job.kind.toHost = true ∧ s.fifo ≠ [] := by
      simpa using hpasses
    have htest : (s.ctrl.job.kind.toHost && !s.ctrl.tc && !s.fifo.isEmpty) = true := by simp [htc, hhost, hfifo]
    have hwaits : endTransfer st0 st1 st2 chrn s = _ := if_pos htest
    rw [hwaits]
    rfl

/-! A data run (46_command_engine R298, R299, 60_exceptions R351, R360). -/

theorem hasFlag_damDeleted (s : State) : hasFlag flagDamDeleted s = s.live.flags.getLsbD 0 := by
  have hbit : ∀ flags : BitVec 3, ((flags &&& flagDamDeleted) != 0) = flags.getLsbD 0 := by decide
  exact hbit s.live.flags

theorem hasFlag_dataMarkMissing (s : State) : hasFlag flagDataMarkMissing s = s.live.flags.getLsbD 1 := by
  have hbit : ∀ flags : BitVec 3, ((flags &&& flagDataMarkMissing) != 0) = flags.getLsbD 1 := by decide
  exact hbit s.live.flags

theorem expectsDeleted_eq (kind : JobKind) : kind.expectsDeleted = (kind == .readDeleted) := by
  cases kind <;> rfl

theorem controlMark_eq (s : State) :
    controlMark s = if s.live.flags.getLsbD 0 = (s.ctrl.job.kind == .readDeleted) then 0 else 0x40 := by
  rw [controlMark, hasFlag_damDeleted, ite_not, State.job, expectsDeleted_eq]
  rfl

theorem controlMark_set {s : State} (h : controlMark s ≠ 0) : controlMark s = 0x40 := by
  rw [controlMark_eq] at h ⊢
  exact if_neg fun hexpected => h (if_pos hexpected)

/-- The report of a write. -/
theorem evaluateData_write {s : State} (h : s.ctrl.job.kind.toMedium = true) :
    evaluateData s = if s.live.flags.getLsbD 2 then endJob 0x40 0x10 0 s.ctrl.job.chrn s else sectorDone s := by
  rw [← hasFlag_overrun]
  exact if_pos h

/-- The report of a read, in the order of 60_exceptions R360. -/
theorem evaluateData_read {s : State} (h : s.ctrl.job.kind.toMedium = false) :
    evaluateData s =
      if s.live.flags.getLsbD 1 then endJob 0x40 1 1 s.ctrl.job.chrn s
      else if s.live.flags.getLsbD 2 then endJob 0x40 0x10 (controlMark s) s.ctrl.job.chrn s
      else if s.live.crc ≠ 0 then endJob 0x40 0x20 (0x20 ||| controlMark s) s.ctrl.job.chrn s
      else if controlMark s ≠ 0 then endTransfer 0 0 (controlMark s) s.ctrl.job.chrn s
      else sectorDone s := by
  rw [← hasFlag_overrun, ← hasFlag_dataMarkMissing]
  exact if_neg (by rw [State.job, h]; decide)

/-- Settles O47: the four ends of `evaluateData_read`, each with its bytes (`endJob_result`, `endTransfer_bytes`). -/
theorem dataRunIsReported : Obligations.DataRunIsReported := by
  unfold Obligations.DataRunIsReported
  rintro s t _ _ _ _ rfl hstep hidle hkind rfl hbuf rfl rfl rfl
  have hreads : s.ctrl.job.kind.toMedium = false := by rcases hkind with h | h <;> rw [h] <;> rfl
  have hhost : s.ctrl.job.kind.toHost = true := by rcases hkind with h | h <;> rw [h] <;> rfl
  have hevaluates : clientStep .afterWake s = evaluateData s := (if_pos hidle).trans (evaluate_dataField hstep)
  have hends (st1 st2 : Byte) : (endJob 0x40 st1 st2 s.ctrl.job.chrn s).ctrl.phase = .result ∧
      (endJob 0x40 st1 st2 s.ctrl.job.chrn s).ctrl.resBuf =
        (0x40 ||| headUnit s.ctrl.job.hd s.ctrl.job.unit) :: st1 :: st2 :: s.ctrl.job.chrn := by
    obtain ⟨hphase, -, -, -, hbytes⟩ := endJob_result (s := s) 0x40 st1 st2 (chrn := s.ctrl.job.chrn) rfl hbuf
    exact ⟨hphase, hbytes⟩
  rw [hevaluates, evaluateData_read hreads, ← controlMark_eq]
  refine ⟨fun hmissing => ?_, fun hmark hoverrun => ?_, fun hmark hclear hcrc => ?_, fun hmark hclear hcrc hdeleted => ?_⟩
  · rw [if_pos hmissing]
    exact hends _ _
  · rw [if_neg (Bool.eq_false_iff.1 hmark), if_pos hoverrun]
    exact hends _ _
  · rw [if_neg (Bool.eq_false_iff.1 hmark), if_neg (Bool.eq_false_iff.1 hclear), if_pos hcrc]
    exact hends _ _
  · rw [if_neg (Bool.eq_false_iff.1 hmark), if_neg (Bool.eq_false_iff.1 hclear), if_neg (not_not.2 hcrc), if_pos hdeleted]
    obtain ⟨-, hphase, hintrq⟩ := enterResult_result (endTransfer 0 0 (controlMark s) s.ctrl.job.chrn s)
    refine ⟨?_, ?_, hphase, hintrq⟩
    · rw [endTransfer_bytes _ _ _ rfl hbuf, zero_status, controlMark_set hdeleted]
      rfl
    · rw [endTransfer_inbox, hhost]
      simp

/-! A good sector (46_command_engine R302, R303). -/

/-- The four lines of 46_command_engine R302, for the target `j`: the next target and whether the track is at its end. -/
def TargetAdvances (j n : Job) (done : Bool) : Prop :=
  j.r ≠ j.eot ∧ n = { j with r := j.r + 1 } ∧ done = false ∨
    j.r = j.eot ∧ j.mt = true ∧ j.h = 0 ∧ n = { j with h := 1, r := 1, hd := !j.hd } ∧ done = false ∨
    j.r = j.eot ∧ j.mt = true ∧ j.h = 1 ∧ n = { j with h := 0, c := j.c + 1, r := 1, hd := !j.hd } ∧ done = true ∨
    j.r = j.eot ∧ (j.mt = false ∨ j.h ≠ 0 ∧ j.h ≠ 1) ∧ n = { j with c := j.c + 1, r := 1 } ∧ done = true

/-- `advance` computes them, and keeps what is not the target. -/
theorem advance_eq {j n : Job} {done : Bool} (h : TargetAdvances j n done) :
    advance j = (n, done) ∧ n.unit = j.unit ∧ n.kind = j.kind := by
  rcases h with ⟨hr, rfl, rfl⟩ | ⟨hr, hmt, hh, rfl, rfl⟩ | ⟨hr, hmt, hh, rfl, rfl⟩ | ⟨hr, hother, rfl, rfl⟩
  · exact ⟨if_pos hr, rfl, rfl⟩
  · exact ⟨(if_neg (not_not.2 hr)).trans (if_pos ⟨hmt, hh⟩), rfl, rfl⟩
  · have hside : ¬(j.mt = true ∧ j.h = 0) := fun h => by simp [hh] at h
    exact ⟨(if_neg (not_not.2 hr)).trans ((if_neg hside).trans (if_pos ⟨hmt, hh⟩)), rfl, rfl⟩
  · have hside (side : Byte) (hne : j.h ≠ 0 ∧ j.h ≠ 1 → j.h ≠ side) : ¬(j.mt = true ∧ j.h = side) := by
      rintro ⟨hmt, hh⟩
      rcases hother with h | h
      · simp [hmt] at h
      · exact hne h hh
    exact ⟨(if_neg (not_not.2 hr)).trans ((if_neg (hside 0 And.left)).trans (if_neg (hside 1 And.right))), rfl, rfl⟩

/-- What follows a good sector. -/
theorem sectorDone_eq {s : State} {n : Job} {done : Bool} (h : advance s.ctrl.job = (n, done)) :
    sectorDone s =
      if s.ctrl.tc then endTransfer 0 0 0 n.chrn (s.setJob n)
      else if done then endTransfer 0x40 0x80 0 n.chrn (s.setJob n)
      else beginSearch (s.setJob n) := by
  rw [sectorDone, State.job, h]
  rfl

/-- The end of the command after a good sector: at terminal count normal, else at the end of the track. -/
theorem sectorDone_ends {s : State} {n : Job} {done : Bool} (h : advance s.ctrl.job = (n, done))
    (hends : s.ctrl.tc = true ∨ done = true) :
    ∃ st0 st1 : Byte, sectorDone s = endTransfer st0 st1 0 n.chrn (s.setJob n) ∧
      (st0 ||| headUnit n.hd n.unit) :: st1 :: 0 :: n.chrn =
        if s.ctrl.tc then [headUnit n.hd n.unit, 0, 0, n.c, n.h, n.r, n.n]
        else [0x40 ||| headUnit n.hd n.unit, 0x80, 0, n.c, n.h, n.r, n.n] := by
  rw [sectorDone_eq h]
  by_cases htc : s.ctrl.tc = true
  · rw [if_pos htc, if_pos htc]
    exact ⟨0, 0, rfl, congrArg (· :: 0 :: 0 :: n.chrn) (zero_status _)⟩
  · rw [if_neg htc, if_neg htc, if_pos (hends.resolve_left htc)]
    exact ⟨0x40, 0x80, rfl, rfl⟩

/-- The direction of a data command's transfer. -/
theorem dataKind_direction {kind : JobKind} {writes : Bool}
    (hwrites : writes = (kind == .writeData || kind == .writeDeleted))
    (hkind : writes = true ∨ kind = .readData ∨ kind = .readDeleted) :
    kind.toMedium = writes ∧ kind.toHost = !writes := by
  subst hwrites
  revert hkind
  cases kind <;> decide

/-- A good sector of a read: nothing is reported (46_command_engine R298). -/
theorem evaluateData_goodRead {s : State} (hreads : s.ctrl.job.kind.toMedium = false)
    (hmark : s.live.flags.getLsbD 1 = false) (hclear : s.live.flags.getLsbD 2 = false) (hcrc : s.live.crc = 0)
    (hdeleted : s.live.flags.getLsbD 0 = (s.ctrl.job.kind == .readDeleted)) : evaluateData s = sectorDone s := by
  have hexpected : controlMark s = 0 := (controlMark_eq s).trans (if_pos hdeleted)
  rw [evaluateData_read hreads, if_neg (Bool.eq_false_iff.1 hmark), if_neg (Bool.eq_false_iff.1 hclear),
    if_neg (not_not.2 hcrc), if_neg (not_not.2 hexpected)]

/-- Settles O48: a write's overrun (`evaluateData_write`), and the end or the search that follows a good sector
(`sectorDone_ends`, `sectorDone_eq`) with the target of R302 (`advance_eq`). -/
theorem sectorEndIsReported : Obligations.SectorEndIsReported := by
  unfold Obligations.SectorEndIsReported
  rintro s t _ writes rfl hstep hidle hwrites hkind rfl hbuf hslot
  have hevaluates : clientStep .afterRun s = evaluateData s := (if_pos hidle).trans (evaluate_dataField hstep)
  obtain ⟨hmedium, hhost⟩ := dataKind_direction hwrites hkind
  rw [hevaluates]
  refine ⟨fun hwrite hoverrun => ?_, fun hgood n done hadvance => ?_⟩
  · rw [evaluateData_write (hmedium.trans hwrite), if_pos hoverrun]
    obtain ⟨hphase, -, -, -, hbytes⟩ := endJob_result (s := s) 0x40 0x10 0 (chrn := s.ctrl.job.chrn) rfl hbuf
    exact ⟨hphase, hbytes⟩
  · have hdone : evaluateData s = sectorDone s := by
      rcases hgood with ⟨hwrite, hclear⟩ | ⟨hread, hmark, hclear, hcrc, hdeleted⟩
      · exact (evaluateData_write (hmedium.trans hwrite)).trans (if_neg (Bool.eq_false_iff.1 hclear))
      · exact evaluateData_goodRead (hmedium.trans hread) hmark hclear hcrc hdeleted
    obtain ⟨hnext, hunit, hsame⟩ := advance_eq hadvance
    rw [hdone, ← hunit]
    refine ⟨fun hends => ?_, fun htc hmore => ?_⟩
    · obtain ⟨st0, st1, hend, hstatus⟩ := sectorDone_ends hnext hends
      obtain ⟨-, hphase, -⟩ := enterResult_result (endTransfer st0 st1 0 n.chrn (s.setJob n))
      obtain ⟨-, -, hfifo⟩ := enterResult_kept_bytes (endTransfer st0 st1 0 n.chrn (s.setJob n))
      rw [hend]
      refine ⟨(endTransfer_bytes (s := s.setJob n) st0 st1 0 rfl hbuf).trans hstatus,
        endTransfer_slot (s := s.setJob n) st0 st1 0 n.chrn (by rwa [← hunit] at hslot), ?_, hphase, hfifo⟩
      have hpasses : n.kind.toHost = false ↔ writes = true := by rw [hsame, hhost, Bool.not_eq_false']
      exact (endTransfer_inbox (s.setJob n) st0 st1 0 n.chrn).trans
        (congrArg (· ++ s.inbox) (if_congr (or_congr_right (or_congr_left hpasses)) rfl rfl))
    · rw [sectorDone_eq hnext, if_neg (Bool.eq_false_iff.1 htc), if_neg (Bool.eq_false_iff.1 hmore)]
      obtain ⟨hinbox, hctrl, -⟩ := beginSearch_result (s.setJob n) (by rwa [← hunit] at hslot)
      rw [hctrl]
      exact ⟨rfl, rfl, hinbox⟩

end Sys2Proof.Proofs
end

section
/-! The host registers but the data register (47_host_interface R331, R333, R334, R336, R338, R339; log 27, log 28, log 30,
log 40). -/

namespace Sys2Proof.Proofs

open Sys2Proof.Machine Sys2Proof.Safety Sys2Proof.Laws

/-! Reads. -/

/-- Bit `i` of the mask of bit `k`. -/
@[simp] theorem getElem_bitIf (b : Bool) (k : Nat) {i : Nat} (hi : i < 8) : (bitIf b k)[i] = (decide (i = k) && b) := by
  rw [← BitVec.getLsbD_eq_getElem, bitIf, BitVec.getLsbD_shiftLeft]
  rcases lt_trichotomy i k with h | rfl | h
  · simp [h, h.ne]
  · simp [hi]
  · have hpos : i - k ≠ 0 := by omega
    simp [BitVec.getLsbD_ofBool, hpos, h.ne']

/-- The drive that the Digital Output Register selects. -/
theorem driveSelect_toNat (s : State) : (driveSelect s).toNat = s.ctrl.dor.toNat % 4 := unitOf_toNat s.ctrl.dor

/-- The lines that Status Registers A and B take from the selected drive, and the rate (47_host_interface R336, log 27). -/
theorem linesOf_selected {s : State} {m : Drive} (hm : m = s.drive (s.ctrl.dor.toNat % 4)) :
    (linesOf s).track0 = m.med.track0 ∧ (linesOf s).wp = m.med.wp ∧ (linesOf s).ready = m.med.ready ∧
      (linesOf s).index = (m.med.present && m.med.index.has s.now) ∧ (linesOf s).rate = s.ctrl.rate := by
  rw [hm, ← driveSelect_toNat]
  exact ⟨rfl, rfl, rfl, rfl, rfl⟩

/-- The Digital Input Register shows the disk change line of the selected drive (47_host_interface R339). -/
theorem readDir_result (s : State) :
    ∃ b : Byte, b.getLsbD 7 = (s.drive (s.ctrl.dor.toNat % 4)).med.dskchg ∧
      readDir s = { s with hostData := b, freeCount := s.freeCount + 1 } := by
  refine ⟨_, ?_, rfl⟩
  rw [← driveSelect_toNat]
  simp

/-! Writes. -/

/-- Data Rate Select without its reset bit: the byte is stored and the rate selected (47_host_interface R334). -/
theorem writeDsr_rate {s : State} {v : Byte} (hv : v.getLsbD 7 = false) :
    writeDsr v s = { s with ctrl := { s.ctrl with dsr := v, rate := rateOfCode v } } := by
  have hmask : v &&& 0x7F = v := by
    revert hv
    revert v
    decide
  rw [writeDsr, if_neg (Bool.eq_false_iff.1 hv), hmask]
  rfl

/-- A write of the Digital Output Register that keeps the reset bit only stores (47_host_interface R333). -/
theorem writeDor_keeps {s : State} {v : Byte} (hv : v.getLsbD 2 = s.ctrl.dor.getLsbD 2) :
    writeDor v s = { s with ctrl := { s.ctrl with dor := v } } := by
  rw [writeDor, hv]
  cases s.ctrl.dor.getLsbD 2 <;> rfl

/-- A write that sets the reset bit ends the reset (47_host_interface R333). -/
theorem writeDor_leaves {s : State} {v : Byte} (hv : v.getLsbD 2 = true) (hreset : s.ctrl.dor.getLsbD 2 = false) :
    writeDor v s = leaveReset (s.setCtrl { s.ctrl with dor := v }) := by
  rw [writeDor, hv, hreset]
  rfl

/-- Leaving reset leaves every slot there. -/
theorem pendAll_length (u : Nat) (ds : List Drive) : (pendAll u ds).length = ds.length := by
  induction ds generalizing u with
  | nil => rfl
  | cons d ds ih => exact congrArg Nat.succ (ih (u + 1))

/-- A slot when the controller leaves reset: the pending status alone is new (47_host_interface R338). -/
theorem leaveReset_drive {s : State} {d : Nat} (h4 : d < 4) (hd : d < s.drives.length) :
    (leaveReset s).drive d = { s.drive d with pending := some (0xC0 ||| BitVec.ofNat 8 d) } := by
  have hslot : (leaveReset s).drive d = { s.drive d with pending := ((leaveReset s).drive d).pending } := by
    simp only [State.drive, List.getD_eq_getElem?_getD]
    rw [show (leaveReset s).drives = pendAll 0 s.drives from rfl, pendAll_getElem?, List.getElem?_eq_getElem hd]
    rfl
  rwa [leaveReset_pending h4 hd] at hslot

/-- Settles O53: the lines of the selected drive (`linesOf_selected`, `readDir_result`), the rate (`rateOfCode_bits`,
`writeDsr_rate`), and the Digital Output Register by the edge of its reset bit. -/
theorem hostRegistersResult : Obligations.HostRegistersResult := by
  unfold Obligations.HostRegistersResult
  rintro s v _ rfl
  rw [← rateOfCode_bits]
  obtain ⟨b, hchanged, hread⟩ := readDir_result s
  refine ⟨fun m hm => linesOf_selected hm, rfl, rfl, rfl, rfl, rfl, ⟨b, hchanged, congrArg Except.ok hread⟩, ⟨_, rfl⟩,
    rfl, rfl, rfl, rfl, rfl, fun hv => congrArg Except.ok (writeDsr_rate hv),
    fun hv => congrArg Except.ok (writeDor_keeps hv), fun hv hreset => ?_⟩
  refine ⟨_, congrArg Except.ok (writeDor_leaves hv hreset), rfl, rfl, pendAll_length 0 s.drives, fun d h4 hd => ?_⟩
  exact leaveReset_drive (s := s.setCtrl { s.ctrl with dor := v }) h4 hd

end Sys2Proof.Proofs
end

section
/-! The Main Status Register bit by bit, and the request lines (47_host_interface R332, R337, 60_exceptions R362; log 27,
log 29). -/

namespace Sys2Proof.Proofs

open Sys2Proof.Machine Sys2Proof.Safety Sys2Proof.Laws

/-! The bits. -/

/-- The upper four bits of the Main Status Register. -/
theorem msr_upper (s : State) :
    (msr s).getLsbD 7 = rqm s ∧ (msr s).getLsbD 6 = dio s ∧
      (msr s).getLsbD 5 = (s.ctrl.phase == .execution && nonDma s) ∧ (msr s).getLsbD 4 = busy s := by
  simp [msr]

/-- The lower four bits, one for each drive. -/
theorem msr_seek (s : State) {u : Nat} (hu : u < 4) : (msr s).getLsbD u = (s.drive u).seeking := by
  interval_cases u <;> simp [msr]

/-! What each bit says. -/

/-- The FIFO is open by the direction of the command. -/
theorem fifoOpen_iff (s : State) :
    fifoOpen s = true ↔ s.ctrl.job.kind.toHost = true ∧ s.fifo ≠ [] ∨
      s.ctrl.job.kind.toMedium = true ∧ s.fifo.length < s.par.fifoSize := by
  cases hhost : s.ctrl.job.kind.toHost with
  | true => simp [fifoOpen, State.job, hhost, toMedium_of_toHost hhost]
  | false => simp [fifoOpen, State.job, hhost]

theorem rqm_iff (s : State) :
    rqm s = true ↔ s.ctrl.dor.getLsbD 2 = true ∧
      (s.ctrl.phase ≠ .execution ∨ nonDma s = true ∧ fifoOpen s = true) := by
  cases hphase : s.ctrl.phase <;> simp [rqm, heldInReset, hphase]

theorem dio_iff (s : State) :
    dio s = true ↔ s.ctrl.phase = .result ∨ (s.ctrl.phase == .execution) = true ∧ s.ctrl.job.kind.toHost = true := by
  cases hphase : s.ctrl.phase <;> simp [dio, State.job, hphase]

theorem busy_iff (s : State) : busy s = true ↔ s.ctrl.phase ≠ .command ∨ s.ctrl.cmdBuf ≠ [] := by
  cases hphase : s.ctrl.phase <;> simp [busy, hphase]

theorem seeking_iff (d : Drive) : d.seeking = true ↔ d.mainState = .seek ∨ d.mainState = .recalibrate := by
  simp [Drive.seeking]

/-! The request lines. -/

theorem drq_iff (s : State) :
    drq s = true ↔ fifoService s = true ∧ nonDma s = false ∧ s.ctrl.dor.getLsbD 3 = true := by
  simp [drq, and_assoc]

theorem intrqLine_iff (s : State) :
    intrqLine s = true ↔
      (s.ctrl.intrq = true ∨ nonDma s = true ∧ fifoService s = true) ∧ s.ctrl.dor.getLsbD 3 = true := by
  simp [intrqLine]

/-- Settles O54: where each bit stands (`msr_upper`, `msr_seek`), and what it and each line say. -/
theorem requestLinesResult : Obligations.RequestLinesResult := by
  unfold Obligations.RequestLinesResult
  rintro s _ _ _ _ _ _ rfl rfl rfl rfl rfl rfl
  obtain ⟨hrqm, hdio, hexecution, hbusy⟩ := msr_upper s
  rw [hrqm, hdio, hexecution, hbusy]
  refine ⟨?_, dio_iff s, Bool.and_eq_true_iff, busy_iff s, fun u hu => ?_, drq_iff s, intrqLine_iff s⟩
  · rw [rqm_iff, fifoOpen_iff]
    rfl
  · rw [msr_seek s hu]
    exact seeking_iff _

end Sys2Proof.Proofs
end

section
/-! A write of the configuration as an event: stored, or the hazard (10_state R40, 70_reset_and_hazards R402; log 34,
log 46). -/

namespace Sys2Proof.Proofs

open Sys2Proof.Machine Sys2Proof.Safety Sys2Proof.Laws

/-- The three writes that 70_reset_and_hazards R402 allows. -/
theorem cfgWriteAllowed_iff (c : Cfg) (s : State) :
    cfgWriteAllowed c s = true ↔
      s.live.drive = none ∨ c = s.cfg ∨ (c = { s.cfg with tcDone := true } ∧ s.snap = ⟨s.live, s.pll⟩) := by
  simp [cfgWriteAllowed, or_assoc]

/-- The hazard's counter fits its register. -/
theorem scramble_bitCounter_lt (par : Params) (v : Nat → Byte) (l : Live) :
    (l.scramble par v).bitCounter < 2 ^ par.counterBits :=
  Nat.mod_lt _ (Nat.two_pow_pos _)

/-- A write that R402 does not allow is the hazard. -/
theorem writeCfg_forbidden {c : Cfg} {s : State} (h : ¬cfgWriteAllowed c s = true) :
    writeCfg c s = disturb { s with cfg := c } := by
  rw [writeCfg, if_neg h]

/-- The hazard frees the data of the live context. -/
theorem disturb_live (s : State) :
    (disturb s).live = s.live.scramble s.par fun i => Config.freeByte (s.freeCount + i) := rfl

/-- The hazard keeps all but the two live contexts, and takes 22 free bytes. -/
theorem disturb_frame (s : State) :
    disturb s = { s with live := (disturb s).live, snap := (disturb s).snap, freeCount := s.freeCount + 22 } := by
  simp only [disturb]

/-- Settles O51: which writes are allowed is `cfgWriteAllowed_iff`. The hazard's frame is `disturb_frame`; in both contexts
`Live.scramble` leaves the state, the deferred state, the time and the drive. -/
theorem configWriteResult : Obligations.ConfigWriteResult := by
  unfold Obligations.ConfigWriteResult
  rintro s c _ hreset rfl
  rw [← cfgWriteAllowed_iff]
  refine ⟨deliver_of_no_reset _ hreset, fun hallowed => ?stored, fun hforbidden t ht => ?hazard⟩
  case stored =>
    rw [writeCfg, if_pos hallowed]
  case hazard =>
    rw [writeCfg_forbidden hforbidden] at ht
    subst ht
    have hcounter : (disturb { s with cfg := c }).live.bitCounter < 2 ^ s.par.counterBits := by
      rw [disturb_live]
      exact scramble_bitCounter_lt s.par _ s.live
    exact ⟨disturb_frame _, rfl, rfl, rfl, rfl, rfl, hcounter, rfl, rfl⟩

end Sys2Proof.Proofs
end
